-- ==== Sys2Proof/Word.lean ====
section
/-! DEFINITION. The value types of the decimal machine: the Word and its range, and text as a list of characters. -/

namespace Sys2Proof

/-- A value of the machine: a mathematical integer, not a bit vector (R8, decision D1). What the spec calls a Word
satisfies `inWord`; the accumulator may hold other integers after an overflow (R31). -/
abbrev Word := Int

/-- `WORD_MIN` (R7). -/
abbrev wordMin : Int := -9999

/-- `WORD_MAX` (R7). -/
abbrev wordMax : Int := 9999

/-- The predicate `inWord(v)` of R10: `v` is a signed four-digit decimal word. -/
abbrev inWord (v : Int) : Prop := wordMin ≤ v ∧ v ≤ wordMax

/-- A piece of text as the list of its characters. -/
abbrev Text := List Char

/-- One console line or one line of the program source, without its line end (R175, R202; log 6). -/
abbrev Line := Text

end Sys2Proof
end

