-- ==== Sys2Proof/Config.lean ====
section
/-! DEFINITION. The implementation parameters of R7, the failure causes of R161, and the OPEN text parameters of R177
and R180, which have no body: nothing about a text can be proved (log 10). -/

namespace Sys2Proof

/-- `CAUSE` values (R41, R161): no failure, the four load causes and the five interpret causes. -/
inductive Cause where
  /-- `NONE`: no failure; the reset value, and the value after HALT. -/
  | none
  /-- `LOAD_NOT_FOUND`: the program source cannot be opened. -/
  | loadNotFound
  /-- `LOAD_UNREADABLE`: a read error occurs in the middle of the source. -/
  | loadUnreadable
  /-- `LOAD_BAD_TOKEN`: a line is not an integer of the grammar, or is out of range. -/
  | loadBadToken
  /-- `LOAD_TOO_MANY_WORDS`: a 101st line is present (decision D11). -/
  | loadTooManyWords
  /-- `ACC_OVERFLOW`: an exact result lies outside the Word range. -/
  | accOverflow
  /-- `DIVIDE_BY_ZERO`: DIVIDE with a zero divisor. -/
  | divideByZero
  /-- `UNKNOWN_OPCODE`: the operation code is none of the thirteen. -/
  | unknownOpcode
  /-- `MODULE_BY_ZERO`: MODULE with a zero divisor (decision D9). -/
  | moduleByZero
  /-- `COUNTER_OUT_OF_RANGE`: a fetch with `IC = 100` (decision D10). -/
  | counterOutOfRange
  deriving DecidableEq, Repr

/-- The items of the diagnostic readout that carry a label (R179). -/
inductive ReadoutItem where
  | accumulator
  | instructionCounter
  | instructionRegister
  | operationCode
  | operand
  deriving DecidableEq, Repr

namespace Config

/-- `MEM_SIZE` (R7, R60): 100 words, addresses 0..99. -/
abbrev memSize : Nat := 100

/-- `ACC_MIN` (R7, R31). -/
abbrev accMin : Int := -99980001

/-- `ACC_MAX` (R7, R31). -/
abbrev accMax : Int := 99980001

/-- `PROMPT_TEXT`, OPEN (R177, D14). -/
opaque promptText : Text

/-- `OUTPUT_PREFIX`, OPEN (R114, R177, D14). -/
opaque outputPrefix : Text

/-- `REJECT_TEXT`, OPEN (R177, D14). -/
opaque rejectText : Text

/-- `LOAD_DONE_TEXT`, OPEN (R177, D14). -/
opaque loadDoneText : Text

/-- `EXEC_BEGIN_TEXT`, OPEN (R177, D14). -/
opaque execBeginText : Text

/-- `EXEC_END_TEXT`, OPEN (R177, D14). -/
opaque execEndText : Text

/-- `ABNORMAL_TEXT`, OPEN (R177, D14). -/
opaque abnormalText : Text

/-- `ERROR_TEXT(cause)`, OPEN (R177, D14). -/
opaque errorText : Cause → Text

/-- The label of a readout item, OPEN (R180, D21). -/
opaque readoutLabel : ReadoutItem → Text

/-- The indentation of the readout's instruction counter, OPEN (R179 item 2, R180, D21). -/
opaque counterIndent : Text

/-- What stands before the column indices in the header row of the memory grid, OPEN (R180, D21). -/
opaque gridHeaderIndent : Text

/-- What separates two cells of a row of the memory grid, OPEN (R180, D21). -/
opaque gridSeparator : Text

end Config

end Sys2Proof
end

