-- ==== Sys2Proof/Syntax.lean ====
section
/-! DEFINITION. The thirteen instructions (R2, R84), one constructor per row of spec/opcode_table.json. -/

namespace Sys2Proof

/-- An instruction with its operand field `OPD` (R83): a memory address, a branch target, or, for HALT, a number that
is decoded and ignored (R153). The operand is 0..99 in every well-formed instruction (R88). -/
inductive Instr where
  /-- 10 READ (R110): one console line into `Mem[addr]`. -/
  | read (addr : Nat)
  /-- 11 WRITE (R113): `Mem[addr]` to the console. -/
  | write (addr : Nat)
  /-- 20 LOAD (R120): `ACC <- Mem[addr]`. -/
  | load (addr : Nat)
  /-- 21 STORE (R121): `Mem[addr] <- ACC`. -/
  | store (addr : Nat)
  /-- 30 ADD (R131). -/
  | add (addr : Nat)
  /-- 31 SUBTRACT (R132). -/
  | subtract (addr : Nat)
  /-- 32 DIVIDE (R133). -/
  | divide (addr : Nat)
  /-- 33 MULTIPLY (R134). -/
  | multiply (addr : Nat)
  /-- 34 MODULE (R135). -/
  | modulo (addr : Nat)
  /-- 40 BRANCH (R150). -/
  | branch (target : Nat)
  /-- 41 BRANCHNEG (R151). -/
  | branchNeg (target : Nat)
  /-- 42 BRANCHZERO (R152). -/
  | branchZero (target : Nat)
  /-- 43 HALT (R153); the operand is ignored. -/
  | halt (opd : Nat)
  deriving DecidableEq, Repr

/-- The operand field of an instruction (R83). -/
def Instr.operand : Instr → Nat
  | .read a => a
  | .write a => a
  | .load a => a
  | .store a => a
  | .add a => a
  | .subtract a => a
  | .divide a => a
  | .multiply a => a
  | .modulo a => a
  | .branch a => a
  | .branchNeg a => a
  | .branchZero a => a
  | .halt a => a

end Sys2Proof
end

