-- ==== Sys2Proof/WellFormed.lean ====
section
/-! DEFINITION. Which instruction terms an instruction word can stand for: the operand field has two decimal digits. -/

namespace Sys2Proof

/-- Well-formedness (R81, R88): the operand lies in 0..99, the same check for every constructor. -/
def Instr.wellFormed (i : Instr) : Bool :=
  match i with
  | .read a => decide (a < Config.memSize)
  | .write a => decide (a < Config.memSize)
  | .load a => decide (a < Config.memSize)
  | .store a => decide (a < Config.memSize)
  | .add a => decide (a < Config.memSize)
  | .subtract a => decide (a < Config.memSize)
  | .divide a => decide (a < Config.memSize)
  | .multiply a => decide (a < Config.memSize)
  | .modulo a => decide (a < Config.memSize)
  | .branch a => decide (a < Config.memSize)
  | .branchNeg a => decide (a < Config.memSize)
  | .branchZero a => decide (a < Config.memSize)
  | .halt a => decide (a < Config.memSize)

end Sys2Proof
end

