-- ==== Sys2Proof/Decode.lean ====
section
/-! DEFINITION. The division primitives of R10, the decode of every word (R82, R84 to R86, R92, R93) and the encoder
(R81, R84). -/

namespace Sys2Proof

/-- `div_t(a, b)` (R10): the integer quotient truncated toward zero, for `b ≠ 0`. -/
def divT (a b : Int) : Int := Int.tdiv a b

/-- `mod_t(a, b)` (R10): `a - b * div_t(a, b)`, for `b ≠ 0`; its sign is the sign of `a`, or it is zero. -/
def modT (a b : Int) : Int := a - b * divT a b

/-- The operation code of a word (R82, R92): `div_t(w, 100)`. -/
def opcOf (w : Int) : Int := divT w 100

/-- The operand of a word (R82, R92): `mod_t(w, 100)`. -/
def opdOf (w : Int) : Int := modT w 100

/-- What dispatch finds: one of the thirteen instructions, or an operation code that is none of theirs (R85, R93),
reported with both decoded fields. -/
inductive Decoded where
  | instr (i : Instr)
  | unknownOpcode (opc opd : Int)
  deriving DecidableEq, Repr

/-- Dispatch on the decoded fields (R84, R93). A word with one of the thirteen codes is not negative, so its operand
is in 0..99 (R88) and the conversion to a natural number drops nothing. -/
def dispatch (opc opd : Int) : Decoded :=
  match opc with
  | 10 => .instr (.read opd.toNat)
  | 11 => .instr (.write opd.toNat)
  | 20 => .instr (.load opd.toNat)
  | 21 => .instr (.store opd.toNat)
  | 30 => .instr (.add opd.toNat)
  | 31 => .instr (.subtract opd.toNat)
  | 32 => .instr (.divide opd.toNat)
  | 33 => .instr (.multiply opd.toNat)
  | 34 => .instr (.modulo opd.toNat)
  | 40 => .instr (.branch opd.toNat)
  | 41 => .instr (.branchNeg opd.toNat)
  | 42 => .instr (.branchZero opd.toNat)
  | 43 => .instr (.halt opd.toNat)
  | _ => .unknownOpcode opc opd

/-- The decode of a word (R82): total, negative words included, and independent of address and time (R89). -/
def decode (w : Int) : Decoded := dispatch (opcOf w) (opdOf w)

/-- The operation code of each instruction (R84). -/
def Instr.code : Instr → Nat
  | .read _ => 10
  | .write _ => 11
  | .load _ => 20
  | .store _ => 21
  | .add _ => 30
  | .subtract _ => 31
  | .divide _ => 32
  | .multiply _ => 33
  | .modulo _ => 34
  | .branch _ => 40
  | .branchNeg _ => 41
  | .branchZero _ => 42
  | .halt _ => 43

/-- The word of an instruction (R81): `100 * OPC + OPD`. -/
def encode (i : Instr) : Int := 100 * (i.code : Int) + (i.operand : Int)

/-- The instruction the decoder reads from a row's word. The table gives decimal words (`match` 1000 for READ), so the
number `w` is the word's decimal value and every row is one word, whatever `nbits` says (R8, R80; log 2). -/
def decodeTableWord (_nbits w : Nat) : Option Instr :=
  match decode (w : Int) with
  | .instr i => some i
  | .unknownOpcode _ _ => none

end Sys2Proof
end

