-- ==== Sys2Proof/Machine/State.lean ====
section
/-! DEFINITION. The architectural state of R45, the host-side data the rules read and write, the reset state of R200,
and the reasons a step of the MODEL can stop. -/

namespace Sys2Proof.Machine

/-- `PHASE` (R40). -/
inductive Phase where
  | idle
  | loading
  | running
  | haltedNormal
  | haltedError
  deriving DecidableEq, Repr

/-- The contents of memory: (address, word) cells with addresses strictly rising and no zero word listed; an unlisted
address holds 0, its reset value (R64). The unit is the decimal Word, since there are no bytes (R67; log 1). -/
abbrev Memory := List (Nat × Int)

/-- The events of the console output stream (R176, R178). -/
inductive Event where
  /-- READ asks for a line. -/
  | prompt
  /-- READ turned a line down. -/
  | reject
  /-- WRITE printed the word `v`. -/
  | value (v : Int)
  /-- The load-completion notice. -/
  | loadDone
  /-- The execution-begin notice. -/
  | execBegin
  /-- The execution-terminated notice after HALT. -/
  | execEnd
  /-- The error message that carries the cause. -/
  | errorMsg (c : Cause)
  /-- The abnormal-termination notice. -/
  | abnormal
  deriving DecidableEq, Repr

/-- The program source the host gives the loader (R202 and the OPEN parameters of 92_eei_decisions.md; log 12): it
cannot be opened, or it delivers `lines` in order and then ends, with a read error if `readError`. -/
inductive ProgramSource where
  | notFound
  | opened (lines : List Line) (readError : Bool)
  deriving DecidableEq, Repr

/-- The diagnostic readout (R179): its items in order; `mem` is `Mem[0..99]`. -/
structure Readout where
  acc : Int
  ic : Nat
  ir : Int
  opc : Int
  opd : Int
  mem : List Int
  deriving DecidableEq, Repr

/-- The whole state of a run: R45's list, then the host-side data (R175, R176, R179, R202; log 3). -/
structure State where
  /-- `Mem[0..99]` (R60). -/
  mem : Memory
  /-- `ACC`, the accumulator (R30, R31). -/
  acc : Int
  /-- `IC`, the instruction counter, 0..100 (R34, R35). -/
  ic : Nat
  /-- `IR`, the word last fetched (R37). -/
  ir : Int
  /-- `OPC`, the decoded operation code (R38). -/
  opc : Int
  /-- `OPD`, the decoded operand (R38). -/
  opd : Int
  /-- `PF`, the processing flag (R39). -/
  pf : Bool
  /-- `PHASE` (R40). -/
  phase : Phase
  /-- `CAUSE` (R41). -/
  cause : Cause
  /-- `RDWAIT`: a READ has prompted and waits for its line (R42). -/
  rdwait : Bool
  /-- The program source, once the host has asked for a run (R201, R202). -/
  source : Option ProgramSource
  /-- The console lines supplied and not yet consumed, the next one first (R175). -/
  input : List Line
  /-- The console output stream, the oldest event first (R176). -/
  output : List Event
  /-- The diagnostic readout, once it has been taken (R179). -/
  readout : Option Readout
  deriving DecidableEq, Repr

/-- The machine right after reset, which is machine construction (R200). The four host-side fields are empty: the host
has not asked for a run and has supplied nothing (log 3). -/
def State.reset : State where
  mem := []
  acc := 0
  ic := 0
  ir := 0
  opc := 0
  opd := 0
  pf := false
  phase := .idle
  cause := .none
  rdwait := false
  source := none
  input := []
  output := []
  readout := none

/-- Stops of the MODEL. The machine's own failures (R161) are next states, not these (log 16). Both constructors stand
for a `requires` clause of R65 that does not hold, which R65 says happens in no reachable state (log 7). -/
inductive Fault where
  /-- Raised by a memory access at an address outside 0..99. Safe: the spec says such an address does not exist. -/
  | addressOutOfRange (a : Int)
  /-- Raised by a memory write of a value that is no Word. Safe: the spec's MemWrite requires a Word. -/
  | valueOutOfRange (v : Int)
  deriving DecidableEq, Repr

/-- Instructions without a meaning. -/
inductive Refusal where
  /-- Raised only by an arm of `exec` for an instruction that has no meaning yet; no arm raises it now. Safe. -/
  | notModelled (mnemonic : String)
  deriving DecidableEq, Repr

/-- What a step or a meaning answers. -/
abbrev Result := Host.Outcome State Fault Refusal

end Sys2Proof.Machine
end

