-- ==== Sys2Proof/Machine/Memory.lean ====
section
/-! DEFINITION. Reading and writing one word of memory (R60, R64, R65), and the canonical form of its contents. -/

namespace Sys2Proof.Machine

/-- `Mem[a]`: the listed word, or 0 for an address nothing has changed since reset (R64). -/
def memGet : Memory → Nat → Int
  | [], _ => 0
  | (b, w) :: rest, a => if a = b then w else memGet rest a

/-- `Mem[a] <- v` in the canonical form: writing 0 removes the cell (log 1). -/
def memSet : Memory → Nat → Int → Memory
  | [], a, v => if v = 0 then [] else [(a, v)]
  | (b, w) :: rest, a, v =>
    if a < b then
      if v = 0 then (b, w) :: rest else (a, v) :: (b, w) :: rest
    else if a = b then
      if v = 0 then rest else (a, v) :: rest
    else (b, w) :: memSet rest a v

/-- The cells from address `lo` on are in canonical form: addresses strictly rising and in 0..99, every listed value a
Word other than 0. -/
def memWfFrom : Nat → Memory → Bool
  | _, [] => true
  | lo, (a, v) :: rest =>
    decide (lo ≤ a) && decide (a < Config.memSize) && decide (v ≠ 0) && decide (inWord v) && memWfFrom (a + 1) rest

/-- The canonical form of memory contents, with R62's invariant that every word lies in the Word range. -/
def Memory.wf (m : Memory) : Bool := memWfFrom 0 m

/-- All 100 words in address order (R179 item 5). -/
def memWords (m : Memory) : List Int := (List.range Config.memSize).map (memGet m)

end Sys2Proof.Machine
end

