-- ==== Sys2Proof/Machine/Ops.lean ====
section
/-! DEFINITION. The named updates of the state, the memory primitives MemRead and MemWrite (R65), the error stop (R170)
and the normal stop (R153). There is no return from a stop (R171): only `State.reset` leaves it. -/

namespace Sys2Proof.Machine

/-- `ACC <- v`. -/
def setAcc (v : Int) (s : State) : State := { s with acc := v }

/-- `IC <- a` (also written `pc <- a`, R10). -/
def setIc (a : Nat) (s : State) : State := { s with ic := a }

/-- The advance `IC <- IC + 1` (R12); from 99 it gives 100, it does not wrap (R35). -/
def advance (s : State) : State := { s with ic := s.ic + 1 }

/-- `Mem[a] <- v`, where the caller has established what MemWrite requires. -/
def putWord (a : Nat) (v : Int) (s : State) : State := { s with mem := memSet s.mem a v }

/-- `Emit(e)` (R10, R176): the console always accepts the event. -/
def emit (e : Event) (s : State) : State := { s with output := s.output ++ [e] }

/-- `RDWAIT <- b` (R42). -/
def setRdwait (b : Bool) (s : State) : State := { s with rdwait := b }

/-- The console lines that remain once READ has consumed one (R175). -/
def setInput (lines : List Line) (s : State) : State := { s with input := lines }

/-- `raise Fault(c)`, the error stop (R170): it writes these three registers and nothing else. The stop is a state of
the machine, so the step that raises it answers a next state (log 16). -/
def raise (c : Cause) (s : State) : State :=
  { s with cause := c, pf := false, phase := .haltedError }

/-- The normal stop of HALT (R153). -/
def haltNormal (s : State) : State := { s with pf := false, phase := .haltedNormal }

/-- The addresses that exist (R60, R69). -/
abbrev validAddr (a : Int) : Prop := 0 ≤ a ∧ a < Config.memSize

/-- `MemRead(a, 1)` (R65), giving the word to `k`; the read itself changes nothing (R66). -/
def memRead (a : Int) (s : State) (k : Int → Result) : Result :=
  if validAddr a then k (memGet s.mem a.toNat) else .fault (.addressOutOfRange a)

/-- `MemWrite(a, 1, v)` (R65), giving the written state to `k`. -/
def memWrite (a v : Int) (s : State) (k : State → Result) : Result :=
  if validAddr a then
    if inWord v then k (putWord a.toNat v s) else .fault (.valueOutOfRange v)
  else .fault (.addressOutOfRange a)

end Sys2Proof.Machine
end

