-- ==== Sys2Proof/Machine/Operands.lean ====
section
/-! DEFINITION. The one operand form of the machine: the operand field is the absolute address of a memory word, used
without change (R83, R122). -/

namespace Sys2Proof.Machine

/-- The memory word an instruction's operand names, as a source (R83). -/
def readOperand (addr : Nat) (s : State) (k : Int → Result) : Result := memRead (addr : Int) s k

/-- The memory word an instruction's operand names, as the destination of `v`; the counter then advances (R110, R121). -/
def writeOperandAndAdvance (addr : Int) (v : Int) (s : State) : Result :=
  memWrite addr v s fun t => .next (advance t)

end Sys2Proof.Machine
end

