-- ==== Sys2Proof/Machine/Flags.lean ====
section
/-! DEFINITION. What an arithmetic result does beyond the accumulator. There are no condition flags, no carry and no
overflow flag (R43); the only effect is the range check of R130. -/

namespace Sys2Proof.Machine

/-- `overflow_check()` (R130): in range, the counter advances; out of range, the machine stops with `ACC_OVERFLOW`,
the accumulator keeps the exact result and the counter stays. -/
def overflowCheck (s : State) : State :=
  if inWord s.acc then advance s else raise .accOverflow s

/-- `ACC <- v` followed by the range check. -/
def setAccChecked (v : Int) (s : State) : State := overflowCheck (setAcc v s)

end Sys2Proof.Machine
end

