-- ==== Sys2Proof/Machine/Arithmetic.lean ====
section
/-! DEFINITION. The arithmetic instructions (R130 to R139). Every result is exact (R136). -/

namespace Sys2Proof.Machine

/-- ADD (R131). -/
def execAdd (addr : Nat) (s : State) : Result :=
  readOperand addr s fun b => .next (setAccChecked (s.acc + b) s)

/-- SUBTRACT (R132). -/
def execSubtract (addr : Nat) (s : State) : Result :=
  readOperand addr s fun b => .next (setAccChecked (s.acc - b) s)

/-- DIVIDE (R133): a zero divisor stops before anything is written; the quotient is not range-checked (R137). -/
def execDivide (addr : Nat) (s : State) : Result :=
  readOperand addr s fun b =>
    .next (if b = 0 then raise .divideByZero s else advance (setAcc (divT s.acc b) s))

/-- MULTIPLY (R134). -/
def execMultiply (addr : Nat) (s : State) : Result :=
  readOperand addr s fun b => .next (setAccChecked (s.acc * b) s)

/-- MODULE (R135): a zero divisor stops before anything is written; the range check stays though it never fails (R138). -/
def execModulo (addr : Nat) (s : State) : Result :=
  readOperand addr s fun b =>
    .next (if b = 0 then raise .moduleByZero s else setAccChecked (modT s.acc b) s)

end Sys2Proof.Machine
end

