-- ==== Sys2Proof/Machine/Control.lean ====
section
/-! DEFINITION. The control-transfer instructions (R150 to R155). -/

namespace Sys2Proof.Machine

/-- BRANCH (R150): `IC <- OPD`, no advance. -/
def execBranch (target : Nat) (s : State) : Result := .next (setIc target s)

/-- BRANCHNEG (R151): taken exactly when the accumulator is negative. -/
def execBranchNeg (target : Nat) (s : State) : Result :=
  .next (if s.acc < 0 then setIc target s else advance s)

/-- BRANCHZERO (R152): taken exactly when the accumulator is zero. -/
def execBranchZero (target : Nat) (s : State) : Result :=
  .next (if s.acc = 0 then setIc target s else advance s)

/-- HALT (R153): the normal stop; the operand is ignored and the counter stays at the HALT's own address. -/
def execHalt (_opd : Nat) (s : State) : Result := .next (haltNormal s)

end Sys2Proof.Machine
end

