-- ==== Sys2Proof/Machine/Console.lean ====
section
/-! DEFINITION. Decimal text: the acceptance function of console lines and loader tokens (R111), the digit and number
renderings of R10, and the rendering of output events (R114, R176, R177). -/

namespace Sys2Proof.Machine

/-- The decimal digits `0`-`9` of the token grammar (R111). -/
def isDigit (c : Char) : Bool := decide (48 ≤ c.toNat) && decide (c.toNat ≤ 57)

/-- The value of a decimal digit. -/
def digitValue (c : Char) : Nat := c.toNat - 48

/-- The character of a decimal digit. -/
def digitChar (d : Nat) : Char := Char.ofNat (48 + d)

/-- The number spelled by a list of digits after `n`, or none where a character is no digit. -/
def parseDigits : Text → Nat → Option Nat
  | [], n => some n
  | c :: cs, n => if isDigit c then parseDigits cs (10 * n + digitValue c) else none

/-- One or more decimal digits and nothing else. -/
def parseNat : Text → Option Nat
  | [] => none
  | c :: cs => parseDigits (c :: cs) 0

/-- `TOKEN_GRAMMAR` (R111): an optional sign, then one or more digits, nothing else. -/
def parseToken : Line → Option Int
  | '+' :: cs => (parseNat cs).map fun (n : Nat) => (n : Int)
  | '-' :: cs => (parseNat cs).map fun (n : Nat) => -(n : Int)
  | cs => (parseNat cs).map fun (n : Nat) => (n : Int)

/-- `accept(line)` (R111): the integer the line spells, if it spells one and it is a Word. -/
def accept (line : Line) : Option Int :=
  match parseToken line with
  | some v => if inWord v then some v else none
  | none => none

/-- `dig(w, k)` (R10): decimal digit `k` of `|w|`, digit 0 least significant. -/
def dig (w : Int) (k : Nat) : Nat := w.natAbs / 10 ^ k % 10

/-- The decimal digits of `n` before `tail`; `fuel` bounds the number of digits. -/
def decimalBefore : Nat → Nat → Text → Text
  | 0, _, tail => tail
  | fuel + 1, n, tail =>
    if n < 10 then digitChar n :: tail else decimalBefore fuel (n / 10) (digitChar (n % 10) :: tail)

/-- `n` in decimal. -/
def decimal (n : Nat) : Text := decimalBefore (n + 1) n []

/-- `n` in decimal, zero-padded to `width` digits; a longer number keeps all its digits (D21). -/
def padded (width n : Nat) : Text :=
  List.replicate (width - (decimal n).length) '0' ++ decimal n

/-- `fmt4(v)` (R10): the sign character, then `|v|` zero-padded to four digits. -/
def fmt4 (v : Int) : Text := (if 0 ≤ v then '+' else '-') :: padded 4 v.natAbs

/-- `fmt2(v)` (R10, R180): `v` zero-padded to two digits, after a `-` where it is negative (D21). -/
def fmt2 (v : Int) : Text := if 0 ≤ v then padded 2 v.natAbs else '-' :: padded 2 v.natAbs

/-- The rendering of an output event (R114, R176, R177). -/
def renderEvent : Event → Text
  | .prompt => Config.promptText
  | .reject => Config.rejectText
  | .value v => Config.outputPrefix ++ fmt4 v
  | .loadDone => Config.loadDoneText
  | .execBegin => Config.execBeginText
  | .execEnd => Config.execEndText
  | .errorMsg c => Config.errorText c
  | .abnormal => Config.abnormalText

end Sys2Proof.Machine
end

