-- ==== Sys2Proof/Machine/Io.lean ====
section
/-! DEFINITION. The input and output instructions READ (R110 to R112) and WRITE (R113, R114). -/

namespace Sys2Proof.Machine

/-- `READ_issue()` (R110): the prompt is emitted and the core blocks until a line arrives. -/
def issueRead (s : State) : State := setRdwait true (emit .prompt s)

/-- `complete_READ(line)` (R110) for the next supplied line, at address `addr`. An accepted value is stored and the
counter advances; a rejected line leaves the counter, so that the READ is fetched again (R112). With no line supplied
the core has no step: the state stays as it is (R175, D13; log 4). -/
def completeRead (addr : Int) (s : State) : Result :=
  match s.input with
  | [] => .next s
  | line :: rest =>
    let t := setRdwait false (setInput rest s)
    match accept line with
    | some v => writeOperandAndAdvance addr v t
    | none => .next (emit .reject t)

/-- READ (R110): its issue, or, where it has issued and waits, its completion (log 8). -/
def execRead (addr : Nat) (s : State) : Result :=
  if s.rdwait then completeRead (addr : Int) s else .next (issueRead s)

/-- WRITE (R113): the word at the operand's address becomes an output event, always advance. -/
def execWrite (addr : Nat) (s : State) : Result :=
  readOperand addr s fun v => .next (advance (emit (.value v) s))

end Sys2Proof.Machine
end

