-- ==== Sys2Proof/Machine/LoadStore.lean ====
section
/-! DEFINITION. LOAD (R120) and STORE (R121). -/

namespace Sys2Proof.Machine

/-- LOAD (R120): `ACC <- Mem[OPD]`, advance. -/
def execLoad (addr : Nat) (s : State) : Result :=
  readOperand addr s fun v => .next (advance (setAcc v s))

/-- STORE (R121): `Mem[OPD] <- ACC`, advance. -/
def execStore (addr : Nat) (s : State) : Result := writeOperandAndAdvance (addr : Int) s.acc s

end Sys2Proof.Machine
end

