-- ==== Sys2Proof/Machine/Dispatch.lean ====
section
/-! DEFINITION. exec: one arm per instruction, each one call of its meaning (R93, R94). -/

namespace Sys2Proof.Machine

def exec (i : Instr) (s : State) : Host.Outcome State Fault Refusal :=
  match i with
  | .read addr => Sys2Proof.Machine.execRead addr s
  | .write addr => Sys2Proof.Machine.execWrite addr s
  | .load addr => Sys2Proof.Machine.execLoad addr s
  | .store addr => Sys2Proof.Machine.execStore addr s
  | .add addr => Sys2Proof.Machine.execAdd addr s
  | .subtract addr => Sys2Proof.Machine.execSubtract addr s
  | .divide addr => Sys2Proof.Machine.execDivide addr s
  | .multiply addr => Sys2Proof.Machine.execMultiply addr s
  | .modulo addr => Sys2Proof.Machine.execModulo addr s
  | .branch target => Sys2Proof.Machine.execBranch target s
  | .branchNeg target => Sys2Proof.Machine.execBranchNeg target s
  | .branchZero target => Sys2Proof.Machine.execBranchZero target s
  | .halt opd => Sys2Proof.Machine.execHalt opd s

end Sys2Proof.Machine
end

