-- ==== Sys2Proof/Machine/Fetch.lean ====
section
/-! DEFINITION. The fetch and decode stages of the per-iteration protocol (R90 to R92). -/

namespace Sys2Proof.Machine

/-- The fetch's check of the counter (R91, R94): `0 <= IC <= 99`. -/
abbrev counterValid (s : State) : Prop := s.ic < Config.memSize

/-- Fetch (R91): `IR <- Mem[IC]`. -/
def fetch (s : State) : State := { s with ir := memGet s.mem s.ic }

/-- Decode (R92): `OPC` and `OPD` from `IR`, nothing else. -/
def decodeFields (s : State) : State := { s with opc := opcOf s.ir, opd := opdOf s.ir }

/-- The state in which a handler or the unknown-opcode stop begins: fetched and decoded (R94). -/
def fetchDecode (s : State) : State := decodeFields (fetch s)

/-- `s` with the word `w` stored where the next step fetches, and the machine RUNNING so that it does fetch
(log 2, log 3). The counter changes only where it names no address. -/
def placeFetchWord (w : Int) (s : State) : State :=
  let at_ := if counterValid s then s.ic else 0
  { s with mem := memSet s.mem at_ w, ic := at_, phase := .running, pf := true, rdwait := false }

end Sys2Proof.Machine
end

