-- ==== Sys2Proof/Machine/Lifecycle.lean ====
section
/-! DEFINITION. The run around the core: what the host does, the start of a run (R201), the loader (R202 to R205), and
the run driver's notices and diagnostic readout once the run has stopped (R178, R179). -/

namespace Sys2Proof.Machine

/-- The host asks for a run with a program source (R201): possible once, in IDLE. A host action, not a step. -/
def requestRun (src : ProgramSource) (s : State) : State :=
  if s.phase = .idle ∧ s.source = none then { s with source := some src } else s

/-- The host supplies one more console line, after those it has supplied before (R175). A host action, not a step. -/
def supplyLine (line : Line) (s : State) : State := { s with input := s.input ++ [line] }

/-- IDLE to LOADING once the host has asked for a run (R40, R201); until then nothing happens (log 4). -/
def startRun (s : State) : State :=
  match s.source with
  | some _ => { s with phase := .loading }
  | none => s

/-- `load_success()` (R205). -/
def loadSuccess (s : State) : State :=
  emit .execBegin { emit .loadDone s with phase := .running, pf := true }

/-- The loop of `load(lines)` (R202) with `i` words already written: the first failing line decides the cause and what
was written stays (R203); a line at `i = 100` is one too many (R204); at the end of the lines a read error fails the load
and otherwise it succeeds. -/
def loadLines : List Line → Bool → Nat → State → State
  | [], readError, _, s => if readError then raise .loadUnreadable s else loadSuccess s
  | line :: rest, readError, i, s =>
    if i = Config.memSize then raise .loadTooManyWords s
    else
      match accept line with
      | none => raise .loadBadToken s
      | some v => loadLines rest readError (i + 1) (putWord i v s)

/-- The loader's turn (R202). In LOADING a source is always present; without one there is no step (log 4). -/
def runLoader (s : State) : State :=
  match s.source with
  | none => s
  | some .notFound => raise .loadNotFound s
  | some (.opened lines readError) => loadLines lines readError 0 s

/-- The diagnostic readout of a state (R179); it changes nothing. -/
def takeReadout (s : State) : Readout where
  acc := s.acc
  ic := s.ic
  ir := s.ir
  opc := s.opc
  opd := s.opd
  mem := memWords s.mem

/-- The closing notices of R178: after HALT, or after a failure. -/
def closingNotices (s : State) : List Event :=
  match s.phase with
  | .haltedNormal => [.execEnd]
  | .haltedError => [.errorMsg s.cause, .abnormal]
  | .idle => []
  | .loading => []
  | .running => []

/-- The run driver's turn once the run has stopped (R178, R179; log 5): the closing notices, then the readout, exactly
once. After that nothing has a step. -/
def closeRun (s : State) : State :=
  match s.readout with
  | some _ => s
  | none => { s with output := s.output ++ closingNotices s, readout := some (takeReadout s) }

end Sys2Proof.Machine
end

