-- ==== Sys2Proof/Machine/Step.lean ====
section
/-! DEFINITION. One step of the machine: PHASE says whose turn it is (R40, R94; log 5). -/

namespace Sys2Proof.Machine

/-- One step of the core (R94), in RUNNING. A waiting READ takes its line; no fetch occurs while `PF = 0` (R39);
otherwise fetch, decode, dispatch, in the priority of R169. -/
def coreStep (s : State) : Host.Outcome State Fault Refusal :=
  if s.rdwait then completeRead s.opd s
  else if s.pf then
    if counterValid s then
      match decode (fetchDecode s).ir with
      | .instr i => exec i (fetchDecode s)
      | .unknownOpcode _ _ => .next (raise .unknownOpcode (fetchDecode s))
    else .next (raise .counterOutOfRange s)
  else .next s

/-- One step: the host's start of the run, the loader, the core, or the run driver after the stop. Where nobody has a
step the state stays as it is (log 4). -/
def step (s : State) : Host.Outcome State Fault Refusal :=
  match s.phase with
  | .idle => .next (startRun s)
  | .loading => .next (runLoader s)
  | .running => coreStep s
  | .haltedNormal => .next (closeRun s)
  | .haltedError => .next (closeRun s)

/-- The word `w` placed where the next step fetches it, in a running machine (log 2, log 3). -/
def State.withFetchWord (s : State) (_nbits w : Nat) : State := placeFetchWord (w : Int) s

end Sys2Proof.Machine
end

