-- ==== Sys2Proof/Machine/Render.lean ====
section
/-! DEFINITION. The numeric codes of PHASE and CAUSE that the host sees (R40, R161, R181), the rendering of the
diagnostic readout (R180), and the listing notation of R96. Nothing here is read by a step. -/

namespace Sys2Proof.Machine

/-- The encoding of `PHASE` (R40). -/
def phaseCode : Phase → Nat
  | .idle => 0
  | .loading => 1
  | .running => 2
  | .haltedNormal => 3
  | .haltedError => 4

/-- The encoding of `CAUSE` (R161). -/
def causeCode : Cause → Nat
  | .none => 0
  | .loadNotFound => 1
  | .loadUnreadable => 2
  | .loadBadToken => 3
  | .loadTooManyWords => 4
  | .accOverflow => 5
  | .divideByZero => 6
  | .unknownOpcode => 7
  | .moduleByZero => 8
  | .counterOutOfRange => 9

/-- A cause of the category LoadError (R160, R161). -/
def isLoadCause : Cause → Bool
  | .loadNotFound => true
  | .loadUnreadable => true
  | .loadBadToken => true
  | .loadTooManyWords => true
  | .none => false
  | .accOverflow => false
  | .divideByZero => false
  | .unknownOpcode => false
  | .moduleByZero => false
  | .counterOutOfRange => false

/-- A cause of the category InterpretError (R160, R161). -/
def isInterpretCause : Cause → Bool
  | .accOverflow => true
  | .divideByZero => true
  | .unknownOpcode => true
  | .moduleByZero => true
  | .counterOutOfRange => true
  | .none => false
  | .loadNotFound => false
  | .loadUnreadable => false
  | .loadBadToken => false
  | .loadTooManyWords => false

/-- The status outputs `PHASE` and `CAUSE`, as the host reads them at any time (R181). -/
def statusOutputs (s : State) : Nat × Nat := (phaseCode s.phase, causeCode s.cause)

/-- The rendered output stream (R176, R177). -/
def renderOutput (s : State) : List Text := s.output.map renderEvent

/-- Row `row` of the memory grid (R180): column `c` is `fmt4(Mem[10*row + c])`. -/
def gridCells (words : List Int) (row : Nat) : List Text :=
  (List.range 10).map fun c => fmt4 (words.getD (10 * row + c) 0)

/-- One row of the memory grid as a line: the row index, then its ten cells (R180; log 11). -/
def gridLine (words : List Int) (row : Nat) : Text :=
  decimal row ++ ((gridCells words row).map fun t => Config.gridSeparator ++ t).flatten

/-- The header row of the memory grid: the column indices 0 to 9 (R180; log 11). -/
def gridHeader : Text :=
  Config.gridHeaderIndent ++ ((List.range 10).map fun c => Config.gridSeparator ++ decimal c).flatten

/-- The readout as lines, in the order of R179 and the formats of R180 (log 11). -/
def renderReadout (r : Readout) : List Text :=
  [ Config.readoutLabel .accumulator ++ fmt4 r.acc,
    Config.readoutLabel .instructionCounter ++ Config.counterIndent ++ fmt2 (r.ic : Int),
    Config.readoutLabel .instructionRegister ++ fmt4 r.ir,
    Config.readoutLabel .operationCode ++ fmt2 r.opc,
    Config.readoutLabel .operand ++ fmt2 r.opd,
    gridHeader ] ++ (List.range 10).map (gridLine r.mem)

/-- The mnemonic of an instruction (R84). -/
def mnemonic : Instr → Text
  | .read _ => "READ".toList
  | .write _ => "WRITE".toList
  | .load _ => "LOAD".toList
  | .store _ => "STORE".toList
  | .add _ => "ADD".toList
  | .subtract _ => "SUBTRACT".toList
  | .divide _ => "DIVIDE".toList
  | .multiply _ => "MULTIPLY".toList
  | .modulo _ => "MODULE".toList
  | .branch _ => "BRANCH".toList
  | .branchNeg _ => "BRANCHNEG".toList
  | .branchZero _ => "BRANCHZERO".toList
  | .halt _ => "HALT".toList

/-- What a listing line can hold (R96): an instruction, HALT without its operand, or a data word. -/
inductive ListingItem where
  | instr (i : Instr)
  | bareHalt
  | data (v : Int)
  deriving DecidableEq, Repr

/-- The word a listing item stands for (R96). -/
def listingWord : ListingItem → Int
  | .instr i => encode i
  | .bareHalt => 4300
  | .data v => v

/-- The notation of a listing item (R96). -/
def listingText : ListingItem → Text
  | .instr i => mnemonic i ++ [' '] ++ fmt2 (i.operand : Int)
  | .bareHalt => "HALT".toList
  | .data v => "DATA ".toList ++ fmt4 v

/-- A word as a listing line writes its decimal value: four digits, a sign only where negative (R96; log 15). -/
def listingNumber (w : Int) : Text := if 0 ≤ w then padded 4 w.natAbs else '-' :: padded 4 w.natAbs

/-- The listing line `aa: wwww  ; text` (R96; log 15). -/
def listingLine (addr : Nat) (item : ListingItem) : Text :=
  fmt2 (addr : Int) ++ ": ".toList ++ listingNumber (listingWord item) ++ "  ; ".toList ++ listingText item

end Sys2Proof.Machine
end

