-- ==== Sys2Proof/Safety.lean ====
section
/-! DEFINITION. When a run has ended, when the core is blocked, and the invariants of the machine, in the terms the
statements use. -/

namespace Sys2Proof.Safety

open Sys2Proof.Machine

/-- A run has ended (R208). -/
abbrev runEnded (s : State) : Prop := s.phase = .haltedNormal ∨ s.phase = .haltedError

/-- The core is blocked on an input line (R175, R182): this is no end of the run. -/
abbrev blocked (s : State) : Prop := s.phase = .running ∧ s.rdwait = true ∧ s.input = []

/-- The core is about to fetch: RUNNING, not waiting for a line, `PF` set and the counter an address (R90, R91). -/
abbrev readyToFetch (s : State) : Prop :=
  s.phase = .running ∧ s.rdwait = false ∧ s.pf = true ∧ s.ic < Config.memSize

/-- Memory is in canonical form and every word is in range (R62). -/
abbrev memoryOk (s : State) : Prop := s.mem.wf = true

/-- The accumulator's range, and that it leaves the Word range only in an overflow stop (R31, R32). -/
abbrev accOk (s : State) : Prop :=
  (Config.accMin ≤ s.acc ∧ s.acc ≤ Config.accMax) ∧
    (inWord s.acc ∨ (s.phase = .haltedError ∧ s.cause = .accOverflow))

/-- The counter's range, and that 100 is held only before the fetch that stops on it and after that stop (R35). -/
abbrev counterOk (s : State) : Prop :=
  s.ic ≤ Config.memSize ∧
    (s.ic = Config.memSize →
      (s.phase = .running ∧ s.rdwait = false) ∨ (s.phase = .haltedError ∧ s.cause = .counterOutOfRange))

/-- The instruction register holds a Word and the decoded fields are its fields (R37, R38). -/
abbrev fieldsOk (s : State) : Prop := inWord s.ir ∧ s.opc = opcOf s.ir ∧ s.opd = opdOf s.ir

/-- `PF = 1` exactly in RUNNING (R39), and a cause exactly in HALTED_ERROR (R41). -/
abbrev controlOk (s : State) : Prop :=
  (s.pf = true ↔ s.phase = .running) ∧ (s.cause = .none ↔ s.phase ≠ .haltedError)

/-- While a READ waits, the machine is RUNNING and the instruction register holds the READ at the counter (R42, R110). -/
abbrev waitOk (s : State) : Prop :=
  s.rdwait = true →
    s.phase = .running ∧ s.opc = 10 ∧ s.ic < Config.memSize ∧ s.ir = memGet s.mem s.ic

/-- Before the load the core registers and memory hold their reset values, and LOADING has a source (R200 to R202). -/
abbrev bootOk (s : State) : Prop :=
  ((s.phase = .idle ∨ s.phase = .loading) → s.mem = [] ∧ s.acc = 0 ∧ s.ic = 0 ∧ s.ir = 0) ∧
    (s.phase = .loading → s.source ≠ none)

/-- A readout is taken only of an ended run and shows the state as it still is (R179). -/
abbrev readoutOk (s : State) : Prop :=
  s.readout = none ∨ (runEnded s ∧ s.readout = some (takeReadout s))

/-- The invariant of the machine: it holds at reset and every step keeps it. -/
abbrev Inv (s : State) : Prop :=
  memoryOk s ∧ accOk s ∧ counterOk s ∧ fieldsOk s ∧ controlOk s ∧ waitOk s ∧ bootOk s ∧ readoutOk s

/-- The instruction register holds the word at the counter, which is an address (R179). -/
abbrev irAtCounter (s : State) : Prop := s.ic < Config.memSize ∧ s.ir = memGet s.mem s.ic

/-- The state each stop leaves behind (the last column of R161, and R153 for the normal stop). -/
abbrev stopRecordOk (s : State) : Prop :=
  (s.phase = .haltedNormal → s.opc = 43 ∧ irAtCounter s) ∧
  (isLoadCause s.cause = true → s.acc = 0 ∧ s.ic = 0 ∧ s.ir = 0) ∧
  (s.cause = .loadNotFound → s.mem = []) ∧
  (s.cause = .accOverflow →
    ¬ inWord s.acc ∧ (s.opc = 30 ∨ s.opc = 31 ∨ s.opc = 33) ∧ irAtCounter s) ∧
  (s.cause = .divideByZero → s.opc = 32 ∧ memGet s.mem s.opd.toNat = 0 ∧ irAtCounter s) ∧
  (s.cause = .unknownOpcode → decode s.ir = .unknownOpcode s.opc s.opd ∧ irAtCounter s) ∧
  (s.cause = .moduleByZero → s.opc = 34 ∧ memGet s.mem s.opd.toNat = 0 ∧ irAtCounter s) ∧
  (s.cause = .counterOutOfRange → s.ic = Config.memSize)

/-- Two states agree on everything R45 lists: memory and the nine registers. -/
abbrev sameCore (s t : State) : Prop :=
  t.mem = s.mem ∧ t.acc = s.acc ∧ t.ic = s.ic ∧ t.ir = s.ir ∧ t.opc = s.opc ∧ t.opd = s.opd ∧ t.pf = s.pf ∧
    t.phase = s.phase ∧ t.cause = s.cause ∧ t.rdwait = s.rdwait

/-- The transitions of `PHASE` that R40 lists, together with staying in the same phase where no step is taken or, in
RUNNING, an instruction neither halts nor faults. -/
abbrev phaseStep (p q : Phase) : Prop :=
  p = q ∨ (p = .idle ∧ q = .loading) ∨ (p = .loading ∧ (q = .running ∨ q = .haltedError)) ∨
    (p = .running ∧ (q = .haltedNormal ∨ q = .haltedError))

/-- The decoded instruction at the counter, when the core is about to fetch (R90 to R93). -/
abbrev runsInstr (s : State) (i : Instr) : Prop :=
  readyToFetch s ∧ decode (memGet s.mem s.ic) = .instr i

/-- A step of a running core at `IC = 100` (R91): nothing but the three stop registers changes. -/
abbrev counterStop (t : State) : Prop :=
  step t = .next { t with cause := .counterOutOfRange, pf := false, phase := .haltedError }

/-- If `s` is a running core at address 99, the state `t` after its instruction stops at the next fetch (R35, R91). -/
abbrev runsOffTheEnd (s t : State) : Prop :=
  s.phase = .running → s.pf = true → s.rdwait = false → s.ic = 99 → counterStop t

/-- `raise Fault(c)` written out (R170). -/
abbrev errorStop (c : Cause) (s : State) : State :=
  { s with cause := c, pf := false, phase := .haltedError }

/-- `s` once the word at its counter has been fetched and decoded (R91, R92), written out. -/
abbrev decodedState (s : State) : State :=
  { s with ir := memGet s.mem s.ic, opc := opcOf (memGet s.mem s.ic), opd := opdOf (memGet s.mem s.ic) }

/-- Memory holds `vals` from address 0 on and 0 elsewhere (R64). -/
abbrev holdsProgram (m : Memory) (vals : List Int) : Prop := ∀ a, memGet m a = vals.getD a 0

/-- Each line is accepted, with the value at the same place of `vals` (R111, R202). -/
abbrev spells (lines : List Line) (vals : List Int) : Prop := lines.map accept = vals.map some

/-- When the counter advances (the rows of R34's table whose entry is `IC + 1`): a waiting READ takes an accepted line,
or an instruction that is not stopped and takes no branch is run. -/
abbrev advancesCounter (s : State) : Prop :=
  (s.rdwait = true ∧ ∃ line rest v, s.input = line :: rest ∧ accept line = some v) ∨
    ∃ a, runsInstr s (.write a) ∨ runsInstr s (.load a) ∨ runsInstr s (.store a) ∨
      (runsInstr s (.add a) ∧ inWord (s.acc + memGet s.mem a)) ∨
      (runsInstr s (.subtract a) ∧ inWord (s.acc - memGet s.mem a)) ∨
      (runsInstr s (.multiply a) ∧ inWord (s.acc * memGet s.mem a)) ∨
      (runsInstr s (.divide a) ∧ memGet s.mem a ≠ 0) ∨
      (runsInstr s (.modulo a) ∧ memGet s.mem a ≠ 0 ∧ inWord (modT s.acc (memGet s.mem a))) ∨
      (runsInstr s (.branchNeg a) ∧ 0 ≤ s.acc) ∨ (runsInstr s (.branchZero a) ∧ s.acc ≠ 0)

/-- A load that stops with `c` after the accepted lines `good`: memory holds their values, and nothing else but the
three stop registers changes (R161, R203). -/
abbrev loadStop (c : Cause) (good : List Line) (s t : State) : Prop :=
  ∃ vals, spells good vals ∧ holdsProgram t.mem vals ∧ t = errorStop c { s with mem := t.mem }

/-- The stop of an arithmetic instruction whose exact result `v` is no Word: `v` stays in the accumulator (R130, R162). -/
abbrev overflowStop (v : Int) (s t : State) : Prop :=
  ¬ inWord v ∧ t = errorStop .accOverflow { decodedState s with acc := v }

/-- The whole state that the stop with cause `c` leaves, from the state `s` before it (R161 with its condition and its
last column, R170). -/
def causeLeaves (c : Cause) (s t : State) : Prop :=
  match c with
  | .none => False
  | .loadNotFound => s.source = some .notFound ∧ t.mem = [] ∧ t = errorStop .loadNotFound s
  | .loadUnreadable =>
    ∃ good, s.source = some (.opened good true) ∧ good.length ≤ Config.memSize ∧ loadStop .loadUnreadable good s t
  | .loadBadToken =>
    ∃ good bad rest readError, s.source = some (.opened (good ++ bad :: rest) readError) ∧ accept bad = none ∧
      good.length < Config.memSize ∧ loadStop .loadBadToken good s t
  | .loadTooManyWords =>
    ∃ good extra rest readError, s.source = some (.opened (good ++ extra :: rest) readError) ∧
      good.length = Config.memSize ∧ loadStop .loadTooManyWords good s t
  | .accOverflow =>
    ∃ a, (runsInstr s (.add a) ∧ overflowStop (s.acc + memGet s.mem a) s t) ∨
      (runsInstr s (.subtract a) ∧ overflowStop (s.acc - memGet s.mem a) s t) ∨
      (runsInstr s (.multiply a) ∧ overflowStop (s.acc * memGet s.mem a) s t)
  | .divideByZero =>
    ∃ a, runsInstr s (.divide a) ∧ memGet s.mem a = 0 ∧ t = errorStop .divideByZero (decodedState s)
  | .unknownOpcode =>
    readyToFetch s ∧ opcOf (memGet s.mem s.ic) ∉ ([10, 11, 20, 21, 30, 31, 32, 33, 34, 40, 41, 42, 43] : List Int) ∧
      t = errorStop .unknownOpcode (decodedState s)
  | .moduleByZero =>
    ∃ a, runsInstr s (.modulo a) ∧ memGet s.mem a = 0 ∧ t = errorStop .moduleByZero (decodedState s)
  | .counterOutOfRange => s.ic = Config.memSize ∧ t = errorStop .counterOutOfRange s

end Sys2Proof.Safety
end

