-- ==== Sys2Proof/Certificates/Slice0/Obligations.lean ====
section
/-! DEFINITION. The statements for the provers: what the rules of spec/ say the machine and each instruction do. -/

open Sys2Proof Sys2Proof.Machine Sys2Proof.Safety

/-! ### Reset, invariants and whole runs -/

/-- R200: every piece of state after reset, memory word by word. -/
def Obligations.ResetSetsEveryRegister : Prop :=
  (∀ a, a < Config.memSize → memGet State.reset.mem a = 0) ∧ State.reset.acc = 0 ∧ State.reset.ic = 0 ∧
    State.reset.ir = 0 ∧ State.reset.opc = 0 ∧ State.reset.opd = 0 ∧ State.reset.pf = false ∧
    State.reset.phase = .idle ∧ State.reset.cause = .none ∧ State.reset.rdwait = false

/-- The invariant and the record of the stops hold at reset. -/
def Obligations.InvariantHoldsAtReset : Prop := Inv State.reset ∧ stopRecordOk State.reset

/-- Every step from a state that meets the invariant ends in one that meets it: the ranges of R31, R35, R37, R38 and
R62, the couplings of R39 to R42, and the readout of R179. -/
def Obligations.EveryStepKeepsInvariant : Prop :=
  ∀ s t : State, Inv s → step s = .next t → Inv t

/-- R161, R153: whatever stops the machine leaves the state that the table says it leaves. A step into HALTED_ERROR
leaves the whole state that `causeLeaves` gives for its cause, in terms of the state before it; a step into HALTED_NORMAL
is a HALT and leaves the decoded state with `PF` and `PHASE` written; and the record of a stop is kept by every later
step. That a whole load is one step is the model's (log 5), as is where a read error falls (log 12). -/
def Obligations.EveryStopLeavesItsRecord : Prop :=
  ∀ s t : State, Inv s → stopRecordOk s → step s = .next t →
    stopRecordOk t ∧
    (s.phase ≠ .haltedError → t.phase = .haltedError → causeLeaves t.cause s t) ∧
    (s.phase ≠ .haltedNormal → t.phase = .haltedNormal →
      (∃ n, runsInstr s (.halt n)) ∧ t = { decodedState s with pf := false, phase := .haltedNormal })

/-- R65: in a state that meets the invariant no access violates a primitive's requirement, so no step answers a fault or
a refusal of the model. The form is the model's choice: a violated requirement would be a fault (log 7), a failure of the
machine is a next state (log 16), and where the spec gives no step (a blocked READ, IDLE without a request, a closed run;
R94, R95, R182) the next state is the state itself (log 4). -/
def Obligations.InvariantStatesAlwaysStep : Prop :=
  ∀ s : State, Inv s → ∃ t, step s = .next t

/-- What the host may do, asking for a run (R201) and supplying a line (R175), keeps the invariant. The form of the two
host actions is the model's (log 3, log 6). -/
def Obligations.HostActionsKeepInvariant : Prop :=
  ∀ (s : State) (src : ProgramSource) (line : Line), Inv s → Inv (requestRun src s) ∧ Inv (supplyLine line s)

/-- Every run from reset, with any program source, any console lines and any number of steps, stays within the
invariant and leaves R161's record when it stops; it never ends in a fault or a refusal of the model. The form of the
host's request and of what it supplies is the model's choice (log 3), as is that every one of the `k` steps answers a next
state, the state itself where the spec gives no step (log 4). -/
def Obligations.EveryRunFromResetIsSafe : Prop :=
  ∀ (src : ProgramSource) (lines : List Line) (k : Nat),
    ∃ t, Host.Core.run core k { requestRun src State.reset with input := lines } = .next t ∧ Inv t ∧ stopRecordOk t

/-- R40's transition table: no step of any state makes another transition of `PHASE`. (That a step may leave `PHASE`
as it is where no step is taken is the model's convention, log 4.) -/
def Obligations.PhaseChangesOnlyAsTabled : Prop :=
  ∀ s t : State, step s = .next t → phaseStep s.phase t.phase

/-- R40, R171, R182: once a run has ended, no number of steps changes any of R45's state or consumes a line. The rules
give no step there; that the model's steps still answer a next state is its choice: the first may close the run (log 5),
the others answer the state itself (log 4). -/
def Obligations.EndedRunKeepsCoreForever : Prop :=
  ∀ (s : State), runEnded s → ∀ k, ∃ t, Host.Core.run core k s = .next t ∧ sameCore s t ∧ t.input = s.input

/-- R41, R167: `CAUSE` is written only on entering HALTED_ERROR, from LOADING with a load cause or from RUNNING with an
interpret cause. -/
def Obligations.CauseWrittenOnlyAtErrorStop : Prop :=
  ∀ s t : State, step s = .next t →
    (t.cause ≠ s.cause → s.phase ≠ .haltedError ∧ t.phase = .haltedError) ∧
    (s.phase ≠ .haltedError → t.phase = .haltedError →
      (s.phase = .loading ∧ isLoadCause t.cause = true) ∨ (s.phase = .running ∧ isInterpretCause t.cause = true))

/-- R153: HALT is the only way into HALTED_NORMAL. -/
def Obligations.NormalEndOnlyByHalt : Prop :=
  ∀ s t : State, step s = .next t → s.phase ≠ .haltedNormal → t.phase = .haltedNormal →
    ∃ n, runsInstr s (.halt n)

/-- R63: outside the loader, the word at an address changes only by a waiting READ that takes an accepted line for that
address, or by a STORE to that address. -/
def Obligations.MemoryWrittenOnlyByReadAndStore : Prop :=
  ∀ (s t : State) (a : Nat), memoryOk s → step s = .next t → s.phase ≠ .loading →
    memGet t.mem a ≠ memGet s.mem a →
    (s.phase = .running ∧ s.rdwait = true ∧ s.opd = (a : Int) ∧
      ∃ line rest, s.input = line :: rest ∧ accept line = some (memGet t.mem a)) ∨
    (runsInstr s (.store a) ∧ memGet t.mem a = s.acc)

/-- R30: a step changes the accumulator only by LOAD and the five arithmetic instructions. -/
def Obligations.AccumulatorWrittenOnlyByItsInstructions : Prop :=
  ∀ s t : State, step s = .next t → t.acc ≠ s.acc →
    ∃ a, runsInstr s (.load a) ∨ runsInstr s (.add a) ∨ runsInstr s (.subtract a) ∨ runsInstr s (.divide a) ∨
      runsInstr s (.multiply a) ∨ runsInstr s (.modulo a)

/-- R34: a step changes the counter in RUNNING alone, and only as the table says: it advances by one for a READ that
takes an accepted line, for WRITE, LOAD and STORE, for an arithmetic instruction that is not stopped and for a branch that
is not taken; it becomes the operand for a branch that is taken. HALT, an undefined operation code, a rejected READ and a
stopped instruction leave it. -/
def Obligations.CounterMovesOnlyAsTabled : Prop :=
  ∀ s t : State, step s = .next t → t.ic ≠ s.ic →
    s.phase = .running ∧
    ((t.ic = s.ic + 1 ∧ advancesCounter s) ∨
      ∃ a, t.ic = a ∧ (runsInstr s (.branch a) ∨ (runsInstr s (.branchNeg a) ∧ s.acc < 0) ∨
        (runsInstr s (.branchZero a) ∧ s.acc = 0)))

/-- R37, R38: the instruction register and the decoded fields are rewritten by every fetch and by nothing else. -/
def Obligations.FetchAloneWritesInstructionRegister : Prop :=
  ∀ s t : State, step s = .next t →
    (readyToFetch s → t.ir = memGet s.mem s.ic ∧ t.opc = opcOf t.ir ∧ t.opd = opdOf t.ir) ∧
    (¬ readyToFetch s → t.ir = s.ir ∧ t.opc = s.opc ∧ t.opd = s.opd)

/-- R176: events are only ever appended to the output stream. -/
def Obligations.OutputStreamIsAppendOnly : Prop :=
  ∀ s t : State, step s = .next t → ∃ es, t.output = s.output ++ es

/-- R175: a line is consumed only by a waiting READ, and then exactly the next one. -/
def Obligations.LinesConsumedOnlyByWaitingRead : Prop :=
  ∀ s t : State, step s = .next t → t.input ≠ s.input →
    s.phase = .running ∧ s.rdwait = true ∧ ∃ line, s.input = line :: t.input

/-! ### Encoding and decode -/

/-- R81, R84, R88: the decoder reads every well-formed instruction back from its word. -/
def Obligations.DecodeReadsBackEveryEncoding : Prop :=
  ∀ i : Instr, i.wellFormed = true → decode (encode i) = .instr i

/-- R81, R84: a word that decodes to an instruction is that instruction's encoding, and the instruction is well-formed:
each of the 1300 words has one reading. -/
def Obligations.DecodedWordIsTheEncoding : Prop :=
  ∀ (w : Int) (i : Instr), decode w = .instr i → i.wellFormed = true ∧ encode i = w

/-- R84, R85: a word is an instruction exactly when it is one of the thirteen codes followed by two digits. -/
def Obligations.InstructionWordsAreExactlyTabled : Prop :=
  ∀ w : Int, (∃ i, decode w = .instr i) ↔
    ∃ c ∈ ([10, 11, 20, 21, 30, 31, 32, 33, 34, 40, 41, 42, 43] : List Int), ∃ d : Int,
      0 ≤ d ∧ d ≤ 99 ∧ w = 100 * c + d

/-- R82, R86: every negative Word has both fields in -99..0 and decodes to an unknown operation code. -/
def Obligations.NegativeWordsAreUnknownOpcodes : Prop :=
  ∀ w : Int, inWord w → w < 0 →
    -99 ≤ opcOf w ∧ opcOf w ≤ 0 ∧ -99 ≤ opdOf w ∧ opdOf w ≤ 0 ∧ 100 * opcOf w + opdOf w = w ∧
      decode w = .unknownOpcode (opcOf w) (opdOf w)

/-- Words of the source's own notation (95_test_vectors.md L1.4) and of its decode vectors (V-DEC). -/
def Obligations.DecodesTheSpecsExampleWords : Prop :=
  decode 1007 = .instr (.read 7) ∧ decode 1109 = .instr (.write 9) ∧ decode 2007 = .instr (.load 7) ∧
    decode 2109 = .instr (.store 9) ∧ decode 3008 = .instr (.add 8) ∧ decode 3202 = .instr (.divide 2) ∧
    decode 3499 = .instr (.modulo 99) ∧ decode 4399 = .instr (.halt 99) ∧ decode 0 = .unknownOpcode 0 0 ∧
    decode 3500 = .unknownOpcode 35 0 ∧ decode 4400 = .unknownOpcode 44 0 ∧
    decode (-50) = .unknownOpcode 0 (-50) ∧ decode (-1007) = .unknownOpcode (-10) (-7)

/-! ### The step -/

/-- When the word at the counter of a core about to fetch decodes to `i`, the step is `i`'s meaning in the state that
the fetch and the decode leave (R91 to R94). -/
def Obligations.StepRunsTheDecodedInstruction : Prop :=
  ∀ (s : State) (i : Instr), readyToFetch s → decode (memGet s.mem s.ic) = .instr i →
    step s = exec i { s with
      ir := memGet s.mem s.ic, opc := opcOf (memGet s.mem s.ic), opd := opdOf (memGet s.mem s.ic) }

/-- A waiting READ is completed by the meaning of READ at the operand that the decode left (R94, R110). -/
def Obligations.StepCompletesWaitingRead : Prop :=
  ∀ (s : State) (a : Nat), s.phase = .running → s.rdwait = true → s.opd = (a : Int) →
    step s = exec (.read a) s

/-- R91, R92: at `IC = 100` the fetch stops and writes nothing else, by the spec's decision D10; at an address it writes
the instruction register, and the decode then writes the two fields and nothing else. -/
def Obligations.FetchAndDecodeWriteTheirRegisters : Prop :=
  (∀ s : State, s.phase = .running → s.rdwait = false → s.pf = true →
    (s.ic = 100 → step s = .next { s with cause := .counterOutOfRange, pf := false, phase := .haltedError }) ∧
    (s.ic < 100 → fetch s = { s with ir := memGet s.mem s.ic })) ∧
  (∀ s : State, decodeFields s = { s with opc := divT s.ir 100, opd := modT s.ir 100 })

/-- R93: where the operation code is none of the thirteen, the stop leaves the state as the decode left it; where it is
one of them, the instruction's meaning runs. -/
def Obligations.DispatchRunsOrStopsUnknown : Prop :=
  ∀ s : State, readyToFetch s →
    (opcOf (memGet s.mem s.ic) ∉ ([10, 11, 20, 21, 30, 31, 32, 33, 34, 40, 41, 42, 43] : List Int) →
      step s = .next { s with
        ir := memGet s.mem s.ic, opc := opcOf (memGet s.mem s.ic), opd := opdOf (memGet s.mem s.ic),
        cause := .unknownOpcode, pf := false, phase := .haltedError }) ∧
    (opcOf (memGet s.mem s.ic) ∈ ([10, 11, 20, 21, 30, 31, 32, 33, 34, 40, 41, 42, 43] : List Int) →
      ∃ i : Instr, (i.code : Int) = opcOf (memGet s.mem s.ic) ∧ (i.operand : Int) = opdOf (memGet s.mem s.ic) ∧
        step s = exec i (decodeFields (fetch s)))

/-- R170: the error stop writes three registers, for every cause. -/
def Obligations.ErrorStopWritesThreeRegisters : Prop :=
  ∀ (c : Cause) (s : State), raise c s = { s with cause := c, pf := false, phase := .haltedError }

/-- R73: a STORE is seen by the next fetch of its address; a STORE to the following word decides the very next
instruction. -/
def Obligations.NextFetchSeesTheStore : Prop :=
  ∀ (s : State) (a : Nat), memoryOk s → inWord s.acc → runsInstr s (.store a) →
    ∃ t, step s = .next t ∧ t.ic = s.ic + 1 ∧ memGet t.mem a = s.acc ∧
      (a = s.ic + 1 → ∀ i, decode s.acc = .instr i → step t = exec i (fetchDecode t)) ∧
      (a = s.ic + 1 → (fetch t).ir = s.acc)

/-- R150, R209: a BRANCH to its own address runs for ever and changes nothing after its first fetch. -/
def Obligations.BranchToItselfRunsForever : Prop :=
  ∀ s : State, readyToFetch s → memGet s.mem s.ic = 4000 + (s.ic : Int) →
    ∀ k, Host.Core.run core (k + 1) s = .next { s with ir := 4000 + (s.ic : Int), opc := 40, opd := (s.ic : Int) }

/-! ### READ and WRITE -/

/-- R110, the issue of a READ: it prompts and waits. -/
def Obligations.ReadIssuePromptsAndWaits : Prop :=
  ∀ (s : State) (a : Nat), s.rdwait = false →
    exec (.read a) s = .next { s with rdwait := true, output := s.output ++ [.prompt] }

/-- R110, the completion of a READ with an accepted line: the value is stored at the operand's address and nowhere else,
the line is consumed, the wait ends and the counter advances. -/
def Obligations.ReadStoresAcceptedLine : Prop :=
  ∀ (s : State) (a : Nat) (line : Line) (rest : List Line) (v : Int),
    memoryOk s → a < Config.memSize → s.rdwait = true → s.input = line :: rest → accept line = some v →
    exec (.read a) s = .next { s with
      mem := memSet s.mem a v, ic := s.ic + 1, rdwait := false, input := rest } ∧
    inWord v ∧ memGet (memSet s.mem a v) a = v ∧
    ∀ b, b ≠ a → memGet (memSet s.mem a v) b = memGet s.mem b

/-- R110, R112: a rejected line is consumed with a `Reject` event; counter and memory stay. -/
def Obligations.ReadRejectsLine : Prop :=
  ∀ (s : State) (a : Nat) (line : Line) (rest : List Line),
    s.rdwait = true → s.input = line :: rest → accept line = none →
    exec (.read a) s = .next { s with rdwait := false, input := rest, output := s.output ++ [.reject] }

/-- R175, D13: with no line supplied a waiting READ stays as it is, for any number of steps. That "no step" is an
unchanged next state is the model's convention (log 4). -/
def Obligations.BlockedReadStaysBlocked : Prop :=
  ∀ s : State, blocked s → ∀ k, Host.Core.run core k s = .next s

/-- R110, R112: however many lines are rejected, each is consumed with one `Reject`, the same READ is fetched again and
prompts again, and nothing else has changed. -/
def Obligations.RejectedLinesOnlyRepeatThePrompt : Prop :=
  ∀ (bad rest : List Line) (s : State), Inv s → s.rdwait = true → s.input = bad ++ rest →
    (∀ line ∈ bad, accept line = none) →
    Host.Core.run core (2 * bad.length) s =
      .next { s with input := rest, output := s.output ++ (bad.map fun _ => [Event.reject, Event.prompt]).flatten }

/-- R111: the acceptance function is the token grammar (an optional sign, one or more digits, nothing else) with the
range check, and the loader applies the same function. -/
def Obligations.AcceptIsTheTokenGrammar : Prop :=
  (∀ (line : Line) (v : Int), accept line = some v ↔
    inWord v ∧ ∃ (sign : Text) (digits : List Nat),
      digits ≠ [] ∧ (∀ d ∈ digits, d < 10) ∧ (sign = [] ∨ sign = ['+'] ∨ sign = ['-']) ∧
      line = sign ++ digits.map digitChar ∧
      v = (if sign = ['-'] then -1 else 1) * ((digits.foldl (fun n d => 10 * n + d) 0 : Nat) : Int)) ∧
  (∀ (line : Line) (rest : List Line) (readError : Bool) (i : Nat) (s : State), i < Config.memSize →
    (accept line = none → loadLines (line :: rest) readError i s = raise .loadBadToken s) ∧
    (∀ v, accept line = some v →
      loadLines (line :: rest) readError i s = loadLines rest readError (i + 1) (putWord i v s)))

/-- R113: WRITE emits the word at its operand's address and advances; nothing else changes. -/
def Obligations.WriteEmitsTheWord : Prop :=
  ∀ (s : State) (a : Nat), a < Config.memSize →
    decode (1100 + (a : Int)) = .instr (.write a) ∧
    exec (.write a) s = .next { s with output := s.output ++ [.value (memGet s.mem a)], ic := s.ic + 1 } ∧
    renderEvent (.value (memGet s.mem a)) = Config.outputPrefix ++ fmt4 (memGet s.mem a) ∧
    runsOffTheEnd s { s with output := s.output ++ [.value (memGet s.mem a)], ic := s.ic + 1 }

/-- R114, R10: the output form of a Word is the prefix, a sign and exactly four digits. -/
def Obligations.WriteRendersSignAndFourDigits : Prop :=
  ∀ v : Int, inWord v →
    renderEvent (.value v) = Config.outputPrefix ++
      [if 0 ≤ v then '+' else '-', digitChar (dig v 3), digitChar (dig v 2), digitChar (dig v 1), digitChar (dig v 0)]

/-- What WRITE prints after its prefix, READ accepts as the same word (R111, R114). -/
def Obligations.PrintedWordIsAcceptedBack : Prop :=
  ∀ v : Int, inWord v → accept (fmt4 v) = some v

/-! ### LOAD and STORE -/

/-- R120: LOAD. -/
def Obligations.LoadCopiesTheWord : Prop :=
  ∀ (s : State) (a : Nat), a < Config.memSize →
    decode (2000 + (a : Int)) = .instr (.load a) ∧
    exec (.load a) s = .next { s with acc := memGet s.mem a, ic := s.ic + 1 } ∧
    runsOffTheEnd s { s with acc := memGet s.mem a, ic := s.ic + 1 }

/-- R121: STORE writes the accumulator at its operand's address and nowhere else. -/
def Obligations.StoreCopiesTheAccumulator : Prop :=
  ∀ (s : State) (a : Nat), memoryOk s → inWord s.acc → a < Config.memSize →
    decode (2100 + (a : Int)) = .instr (.store a) ∧
    exec (.store a) s = .next { s with mem := memSet s.mem a s.acc, ic := s.ic + 1 } ∧
    memGet (memSet s.mem a s.acc) a = s.acc ∧
    (∀ b, b ≠ a → memGet (memSet s.mem a s.acc) b = memGet s.mem b) ∧
    runsOffTheEnd s { s with mem := memSet s.mem a s.acc, ic := s.ic + 1 }

/-- R65: an access whose requirement fails is the model's fault, named by what failed (log 7); no reachable state does
this (`InvariantStatesAlwaysStep`). -/
def Obligations.UnmetAccessRequirementFaults : Prop :=
  ∀ (s : State) (a : Nat),
    (Config.memSize ≤ a →
      ∀ i ∈ [Instr.write a, .load a, .store a, .add a, .subtract a, .divide a, .multiply a, .modulo a],
        exec i s = .fault (.addressOutOfRange (a : Int))) ∧
    (a < Config.memSize → ¬ inWord s.acc → exec (.store a) s = .fault (.valueOutOfRange s.acc))

/-! ### Arithmetic -/

/-- R131: ADD, in range and on overflow. -/
def Obligations.AddIsExactAndChecked : Prop :=
  ∀ (s : State) (a : Nat), a < Config.memSize →
    decode (3000 + (a : Int)) = .instr (.add a) ∧
    (inWord (s.acc + memGet s.mem a) →
      exec (.add a) s = .next { s with acc := s.acc + memGet s.mem a, ic := s.ic + 1 }) ∧
    (¬ inWord (s.acc + memGet s.mem a) →
      exec (.add a) s = .next (errorStop .accOverflow { s with acc := s.acc + memGet s.mem a }))

/-- R132: SUBTRACT, in range and on overflow. -/
def Obligations.SubtractIsExactAndChecked : Prop :=
  ∀ (s : State) (a : Nat), a < Config.memSize →
    decode (3100 + (a : Int)) = .instr (.subtract a) ∧
    (inWord (s.acc - memGet s.mem a) →
      exec (.subtract a) s = .next { s with acc := s.acc - memGet s.mem a, ic := s.ic + 1 }) ∧
    (¬ inWord (s.acc - memGet s.mem a) →
      exec (.subtract a) s = .next (errorStop .accOverflow { s with acc := s.acc - memGet s.mem a }))

/-- R134: MULTIPLY, in range and on overflow. -/
def Obligations.MultiplyIsExactAndChecked : Prop :=
  ∀ (s : State) (a : Nat), a < Config.memSize →
    decode (3300 + (a : Int)) = .instr (.multiply a) ∧
    (inWord (s.acc * memGet s.mem a) →
      exec (.multiply a) s = .next { s with acc := s.acc * memGet s.mem a, ic := s.ic + 1 }) ∧
    (¬ inWord (s.acc * memGet s.mem a) →
      exec (.multiply a) s = .next (errorStop .accOverflow { s with acc := s.acc * memGet s.mem a }))

/-- R133: DIVIDE, with a divisor and with zero. -/
def Obligations.DivideTruncatesOrStops : Prop :=
  ∀ (s : State) (a : Nat), a < Config.memSize →
    decode (3200 + (a : Int)) = .instr (.divide a) ∧
    (memGet s.mem a ≠ 0 →
      exec (.divide a) s = .next { s with acc := Int.tdiv s.acc (memGet s.mem a), ic := s.ic + 1 }) ∧
    (memGet s.mem a = 0 → exec (.divide a) s = .next (errorStop .divideByZero s))

/-- R135, R138: MODULE on a memory in range always passes its range check; a zero divisor stops it. -/
def Obligations.ModuleTakesTheTruncatedRemainder : Prop :=
  ∀ (s : State) (a : Nat), memoryOk s → a < Config.memSize →
    decode (3400 + (a : Int)) = .instr (.modulo a) ∧
    (memGet s.mem a ≠ 0 →
      exec (.modulo a) s = .next { s with
        acc := s.acc - memGet s.mem a * Int.tdiv s.acc (memGet s.mem a), ic := s.ic + 1 }) ∧
    (memGet s.mem a = 0 → exec (.modulo a) s = .next (errorStop .moduleByZero s))

/-- R136: what DIVIDE and MODULE leave in the accumulator from one and the same state fit together. -/
def Obligations.QuotientAndRemainderFitTogether : Prop :=
  ∀ (s q r : State) (a : Nat), memGet s.mem a ≠ 0 →
    exec (.divide a) s = .next q → exec (.modulo a) s = .next r →
    q.acc * memGet s.mem a + r.acc = s.acc ∧ r.acc.natAbs < (memGet s.mem a).natAbs ∧
      (r.acc = 0 ∨ Int.sign r.acc = Int.sign s.acc)

/-- R137: DIVIDE of a Word never leaves the Word range, though nothing checks it. -/
def Obligations.DivideNeverLeavesTheWordRange : Prop :=
  ∀ (s t : State) (a : Nat), inWord s.acc → memGet s.mem a ≠ 0 → exec (.divide a) s = .next t →
    inWord t.acc ∧ t.acc.natAbs ≤ s.acc.natAbs ∧ t.ic = s.ic + 1 ∧ t.phase = s.phase ∧ t.cause = s.cause

/-- The frame of the five arithmetic instructions: only the accumulator, the counter and, on a stop, `CAUSE`, `PF` and
`PHASE` may change; every word of memory reads as before (R139). -/
def Obligations.ArithmeticFrame : Prop :=
  ∀ (s t : State) (a : Nat) (i : Instr),
    i ∈ [Instr.add a, .subtract a, .divide a, .multiply a, .modulo a] → exec i s = .next t →
    (∀ b, memGet t.mem b = memGet s.mem b) ∧ t.ir = s.ir ∧ t.opc = s.opc ∧ t.opd = s.opd ∧ t.rdwait = s.rdwait ∧
      t.source = s.source ∧ t.input = s.input ∧ t.output = s.output ∧ t.readout = s.readout ∧
      ((t.ic = s.ic + 1 ∧ t.cause = s.cause ∧ t.pf = s.pf ∧ t.phase = s.phase) ∨
        (t.ic = s.ic ∧ isInterpretCause t.cause = true ∧ t.pf = false ∧ t.phase = .haltedError))

/-! ### Control transfer -/

/-- R150: BRANCH. -/
def Obligations.BranchSetsTheCounter : Prop :=
  ∀ (s : State) (a : Nat), a < Config.memSize →
    decode (4000 + (a : Int)) = .instr (.branch a) ∧ exec (.branch a) s = .next { s with ic := a }

/-- R151: BRANCHNEG, taken exactly on a negative accumulator. -/
def Obligations.BranchNegTestsTheSign : Prop :=
  ∀ (s : State) (a : Nat), a < Config.memSize →
    decode (4100 + (a : Int)) = .instr (.branchNeg a) ∧
    (s.acc < 0 → exec (.branchNeg a) s = .next { s with ic := a }) ∧
    (0 ≤ s.acc → exec (.branchNeg a) s = .next { s with ic := s.ic + 1 } ∧
      runsOffTheEnd s { s with ic := s.ic + 1 })

/-- R152: BRANCHZERO, taken exactly on a zero accumulator. -/
def Obligations.BranchZeroTestsForZero : Prop :=
  ∀ (s : State) (a : Nat), a < Config.memSize →
    decode (4200 + (a : Int)) = .instr (.branchZero a) ∧
    (s.acc = 0 → exec (.branchZero a) s = .next { s with ic := a }) ∧
    (s.acc ≠ 0 → exec (.branchZero a) s = .next { s with ic := s.ic + 1 } ∧
      runsOffTheEnd s { s with ic := s.ic + 1 })

/-- R153: HALT with any operand stops normally and leaves everything but `PF` and `PHASE`. -/
def Obligations.HaltStopsNormally : Prop :=
  ∀ (s : State) (n : Nat), n < Config.memSize →
    decode (4300 + (n : Int)) = .instr (.halt n) ∧
    exec (.halt n) s = .next { s with pf := false, phase := .haltedNormal }

/-! ### Loading, starting and closing a run -/

/-- R40, R201: the run starts when the host has asked for it, and not before. That the start is a step of its own is the
model's choice (log 5), and so is that a step without a request answers the state itself (log 4). -/
def Obligations.RunStartsWhenRequested : Prop :=
  ∀ s : State, s.phase = .idle →
    (∀ src, s.source = some src → step s = .next { s with phase := .loading }) ∧
    (s.source = none → step s = .next s)

/-- R205: what a successful load does beyond writing memory, and that the first fetch after it is from `Mem[0]`. -/
def Obligations.LoadSuccessStartsRunning : Prop :=
  ∀ s : State,
    loadSuccess s = { s with output := s.output ++ [.loadDone, .execBegin], phase := .running, pf := true } ∧
    (s.ic = 0 → (fetch (loadSuccess s)).ir = memGet s.mem 0)

/-- R64: a successful load of `n` lines leaves the words in order at 0..n-1 and 0 elsewhere, from the zero memory of
reset, and starts the machine. That the whole load is one step is the model's choice (log 5). -/
def Obligations.LoadFillsMemoryInOrder : Prop :=
  (∀ a, memGet State.reset.mem a = 0) ∧
  ∀ (s : State) (lines : List Line) (vals : List Int),
    s.phase = .loading → s.source = some (.opened lines false) → s.mem = [] → spells lines vals →
    lines.length ≤ Config.memSize →
    ∃ m, holdsProgram m vals ∧
      step s = .next { s with mem := m, phase := .running, pf := true, output := s.output ++ [.loadDone, .execBegin] }

/-- R202, R203: a bad line stops the load, and the words before it stay. That one step loads the lines before it and
stops is the model's choice (log 5). -/
def Obligations.BadTokenKeepsEarlierWords : Prop :=
  ∀ (s : State) (good rest : List Line) (bad : Line) (readError : Bool) (vals : List Int),
    s.phase = .loading → s.source = some (.opened (good ++ bad :: rest) readError) → s.mem = [] →
    spells good vals → good.length < Config.memSize → accept bad = none →
    ∃ m, holdsProgram m vals ∧ step s = .next (errorStop .loadBadToken { s with mem := m })

/-- R204: a source with more than 100 lines fails when the 101st is reached, and memory keeps the first 100 words. That
one step loads the 100 words and stops is the model's choice (log 5). -/
def Obligations.TooManyLinesKeepTheFirstHundred : Prop :=
  ∀ (s : State) (good rest : List Line) (extra : Line) (readError : Bool) (vals : List Int),
    s.phase = .loading → s.source = some (.opened (good ++ extra :: rest) readError) → s.mem = [] →
    spells good vals → good.length = Config.memSize →
    ∃ m, holdsProgram m vals ∧ step s = .next (errorStop .loadTooManyWords { s with mem := m })

/-- R161, R202: a source that cannot be opened writes nothing; a read error keeps the words read before it. That the load
is one step is the model's choice (log 5), and a read error that follows the delivered lines is its reading of R202
(log 12, DEDUCED). -/
def Obligations.UnreadableSourceStopsTheLoad : Prop :=
  ∀ (s : State), s.phase = .loading →
    (s.source = some .notFound → step s = .next (errorStop .loadNotFound s)) ∧
    (∀ (lines : List Line) (vals : List Int), s.source = some (.opened lines true) → s.mem = [] →
      spells lines vals → lines.length ≤ Config.memSize →
      ∃ m, holdsProgram m vals ∧ step s = .next (errorStop .loadUnreadable { s with mem := m }))

/-- R178, R179: once the run has stopped the run driver appends the notices of the end and takes the readout, exactly
once, and the readout shows each register (items 1 to 4; item 3 is the register, D22) and the 100 words of memory (item 5).
That the run is closed in one step is the model's choice (log 5), and so is that a step after it answers the state itself
(log 4). -/
def Obligations.StoppedRunIsClosedOnce : Prop :=
  ∀ s : State,
    (s.readout = none → s.phase = .haltedNormal →
      step s = .next { s with output := s.output ++ [.execEnd], readout := some (takeReadout s) }) ∧
    (s.readout = none → s.phase = .haltedError →
      step s = .next { s with output := s.output ++ [.errorMsg s.cause, .abnormal], readout := some (takeReadout s) }) ∧
    (∀ r, s.readout = some r → runEnded s → step s = .next s) ∧
    (takeReadout s).acc = s.acc ∧ (takeReadout s).ic = s.ic ∧ (takeReadout s).ir = s.ir ∧
    (takeReadout s).opc = s.opc ∧ (takeReadout s).opd = s.opd ∧ (takeReadout s).mem.length = Config.memSize ∧
    (∀ a, a < Config.memSize → (takeReadout s).mem.getD a 0 = memGet s.mem a)
end

