-- ==== Sys2Proof/Laws/Arithmetic.lean ====
section
/-! SUPPORT. The division primitives of R10 against the library's truncating division, and the fields of words. -/

namespace Sys2Proof

/-- `mod_t` is the library's truncated remainder. -/
theorem modT_eq_tmod (a b : Int) : modT a b = Int.tmod a b := by
  rw [modT, divT, Int.tmod_def]

theorem divT_mul_add_modT (a b : Int) : divT a b * b + modT a b = a := by
  unfold modT; linarith [mul_comm b (divT a b)]

/-- Of a word that is not negative, the operation code is the two high digits (R81). -/
theorem opcOf_of_nonneg {w : Int} (h : 0 ≤ w) : opcOf w = w / 100 := Int.tdiv_eq_ediv_of_nonneg h

/-- Of a word that is not negative, the operand is the two low digits (R81). -/
theorem opdOf_of_nonneg {w : Int} (h : 0 ≤ w) : opdOf w = w % 100 := by
  rw [opdOf, modT_eq_tmod, Int.tmod_eq_emod_of_nonneg h]

/-- The fields of a word made of two fields (R81). -/
theorem opcOf_fields {c d : Nat} (h : d < 100) : opcOf (100 * (c : Int) + d) = c := by
  rw [opcOf_of_nonneg (by omega)]; omega

theorem opdOf_fields {c d : Nat} (h : d < 100) : opdOf (100 * (c : Int) + d) = d := by
  rw [opdOf_of_nonneg (by omega)]; omega

/-- Of a negative word, neither field is positive (R82). -/
theorem opcOf_of_neg {w : Int} (h : w < 0) : opcOf w = -(-w / 100) := by
  have : opcOf w = -(opcOf (-w)) := by unfold opcOf divT; rw [Int.neg_tdiv]; simp
  rw [this, opcOf_of_nonneg (by omega)]

theorem opdOf_of_neg {w : Int} (h : w < 0) : opdOf w = -(-w % 100) := by
  have : opdOf w = -(opdOf (-w)) := by unfold opdOf; rw [modT_eq_tmod, modT_eq_tmod, Int.neg_tmod]; simp
  rw [this, opdOf_of_nonneg (by omega)]

end Sys2Proof
end

