-- ==== Sys2Proof/Laws/Memory.lean ====
section
/-! SUPPORT. Read after write, and that writing keeps the canonical form of memory. -/

namespace Sys2Proof.Machine

@[simp] theorem memSize_eq : Config.memSize = 100 := rfl

@[simp] theorem accMin_eq : Config.accMin = -99980001 := rfl

@[simp] theorem accMax_eq : Config.accMax = 99980001 := rfl

@[simp] theorem inWord_iff (v : Int) : inWord v ↔ -9999 ≤ v ∧ v ≤ 9999 := Iff.rfl

@[simp] theorem memGet_nil (a : Nat) : memGet [] a = 0 := rfl

@[simp] theorem memWfFrom_nil (lo : Nat) : memWfFrom lo [] = true := rfl

@[simp] theorem Memory.wf_nil : Memory.wf [] = true := rfl

theorem memWfFrom_cons {lo a : Nat} {v : Int} {rest : Memory} :
    memWfFrom lo ((a, v) :: rest) = true ↔
      lo ≤ a ∧ a < Config.memSize ∧ v ≠ 0 ∧ inWord v ∧ memWfFrom (a + 1) rest = true := by
  simp only [memWfFrom, Bool.and_eq_true, decide_eq_true_eq, and_assoc]

/-- A lower starting address asks for less. -/
theorem memWfFrom_of_le {lo hi : Nat} {m : Memory} (h : lo ≤ hi) (hm : memWfFrom hi m = true) :
    memWfFrom lo m = true := by
  cases m with
  | nil => rfl
  | cons c rest =>
    obtain ⟨a, v⟩ := c
    rw [memWfFrom_cons] at hm ⊢
    exact ⟨h.trans hm.1, hm.2⟩

/-- Below the first listed address memory holds its reset value. -/
theorem memGet_eq_zero_of_lt {m : Memory} {lo a : Nat} (hm : memWfFrom lo m = true) (h : a < lo) :
    memGet m a = 0 := by
  induction m generalizing lo with
  | nil => rfl
  | cons c rest ih =>
    obtain ⟨b, w⟩ := c
    rw [memWfFrom_cons] at hm
    obtain ⟨hb, -, -, -, hrest⟩ := hm
    have hne : a ≠ b := by omega
    simp only [memGet, hne, if_false]
    exact ih hrest (by omega)

theorem memGet_memSet_from {m : Memory} {lo : Nat} (hm : memWfFrom lo m = true) (a : Nat) (v : Int) (b : Nat) :
    memGet (memSet m a v) b = if b = a then v else memGet m b := by
  induction m generalizing lo with
  | nil => by_cases hv : v = 0 <;> by_cases hb : b = a <;> simp [memSet, memGet, hv, hb]
  | cons c rest ih =>
    obtain ⟨d, w⟩ := c
    rw [memWfFrom_cons] at hm
    obtain ⟨-, -, -, -, hrest⟩ := hm
    by_cases hlt : a < d
    · have h0 : memGet rest a = 0 := memGet_eq_zero_of_lt hrest (by omega)
      by_cases hv : v = 0 <;> by_cases hb : b = a <;> simp_all [memSet, memGet]
      omega
    · by_cases heq : a = d
      · subst heq
        have h0 : memGet rest a = 0 := memGet_eq_zero_of_lt hrest (by omega)
        by_cases hv : v = 0 <;> by_cases hb : b = a <;> simp_all [memSet, memGet]
      · by_cases hb : b = d
        · subst hb
          have : b ≠ a := fun h => heq h.symm
          simp [memSet, memGet, hlt, heq, this]
        · simp [memSet, memGet, hlt, heq, hb, ih hrest]

/-- Read after write: the written address holds the value, every other address what it held. -/
theorem memGet_memSet {m : Memory} (hm : m.wf = true) (a : Nat) (v : Int) (b : Nat) :
    memGet (memSet m a v) b = if b = a then v else memGet m b :=
  memGet_memSet_from hm a v b

theorem memSet_wfFrom {m : Memory} {lo a : Nat} {v : Int} (hm : memWfFrom lo m = true) (hlo : lo ≤ a)
    (ha : a < Config.memSize) (hv : inWord v) : memWfFrom lo (memSet m a v) = true := by
  induction m generalizing lo with
  | nil =>
    by_cases h0 : v = 0
    · simp [memSet, h0]
    · simp only [memSet, h0, if_false]
      exact memWfFrom_cons.2 ⟨hlo, ha, h0, hv, rfl⟩
  | cons c rest ih =>
    obtain ⟨d, w⟩ := c
    have hm' := memWfFrom_cons.1 hm
    obtain ⟨hd, hds, hw0, hw, hrest⟩ := hm'
    by_cases hlt : a < d
    · by_cases h0 : v = 0
      · simpa [memSet, hlt, h0] using hm
      · simp only [memSet, hlt, h0, if_true, if_false]
        exact memWfFrom_cons.2 ⟨hlo, ha, h0, hv, memWfFrom_cons.2 ⟨by omega, hds, hw0, hw, hrest⟩⟩
    · by_cases heq : a = d
      · subst heq
        by_cases h0 : v = 0
        · simp only [memSet, hlt, h0, if_true, if_false]
          exact memWfFrom_of_le (by omega) hrest
        · simp only [memSet, hlt, h0, if_true, if_false]
          exact memWfFrom_cons.2 ⟨hlo, ha, h0, hv, hrest⟩
      · simp only [memSet, hlt, heq, if_false]
        exact memWfFrom_cons.2 ⟨hd, hds, hw0, hw, ih hrest (by omega)⟩

/-- Writing a Word at an address that exists keeps the canonical form. -/
theorem memSet_wf {m : Memory} {a : Nat} {v : Int} (hm : m.wf = true) (ha : a < Config.memSize) (hv : inWord v) :
    (memSet m a v).wf = true :=
  memSet_wfFrom hm (Nat.zero_le a) ha hv

theorem memGet_inWord_from {m : Memory} {lo : Nat} (hm : memWfFrom lo m = true) (a : Nat) : inWord (memGet m a) := by
  induction m generalizing lo with
  | nil => simp
  | cons c rest ih =>
    obtain ⟨b, w⟩ := c
    obtain ⟨-, -, -, hw, hrest⟩ := memWfFrom_cons.1 hm
    by_cases h : a = b
    · simpa [memGet, h] using hw
    · simpa [memGet, h] using ih hrest

/-- Every word read from canonical contents is in the Word range (R62). -/
theorem memGet_inWord {m : Memory} (hm : m.wf = true) (a : Nat) : inWord (memGet m a) :=
  memGet_inWord_from hm a

/-- Canonical contents that read alike at every address are equal data. -/
theorem memory_ext_from {m n : Memory} {lo : Nat} (hm : memWfFrom lo m = true) (hn : memWfFrom lo n = true)
    (h : ∀ a, memGet m a = memGet n a) : m = n := by
  induction m generalizing n lo with
  | nil =>
    cases n with
    | nil => rfl
    | cons c rest =>
      obtain ⟨b, w⟩ := c
      obtain ⟨-, -, hw0, -, -⟩ := memWfFrom_cons.1 hn
      have := h b
      simp [memGet] at this
      exact absurd this.symm hw0
  | cons c rest ih =>
    obtain ⟨a, v⟩ := c
    obtain ⟨_, _, hv0, _, hrest⟩ := memWfFrom_cons.1 hm
    cases n with
    | nil =>
      have := h a
      simp [memGet] at this
      exact absurd this hv0
    | cons d rest' =>
      obtain ⟨b, w⟩ := d
      obtain ⟨_, _, hw0, _, hrest'⟩ := memWfFrom_cons.1 hn
      have hab : a = b := by
        rcases Nat.lt_trichotomy a b with hlt | heq | hgt
        · have h1 := h a
          have h2 : memGet ((b, w) :: rest') a = 0 :=
            memGet_eq_zero_of_lt (lo := b) (memWfFrom_cons.2 ⟨le_refl b, ‹_›, hw0, ‹_›, hrest'⟩) hlt
          simp [memGet] at h1 h2
          exact absurd (h1.trans h2) hv0
        · exact heq
        · have h1 := h b
          have h2 : memGet ((a, v) :: rest) b = 0 :=
            memGet_eq_zero_of_lt (lo := a) (memWfFrom_cons.2 ⟨le_refl a, ‹_›, hv0, ‹_›, hrest⟩) hgt
          simp [memGet] at h1 h2
          exact absurd (h1.symm.trans h2) hw0
      subst hab
      have hvw : v = w := by simpa [memGet] using h a
      subst hvw
      have : rest = rest' := by
        refine ih hrest hrest' fun x => ?_
        by_cases hx : x = a
        · subst hx
          rw [memGet_eq_zero_of_lt hrest (by omega), memGet_eq_zero_of_lt hrest' (by omega)]
        · simpa [memGet, hx] using h x
      rw [this]

theorem memory_ext {m n : Memory} (hm : m.wf = true) (hn : n.wf = true) (h : ∀ a, memGet m a = memGet n a) : m = n :=
  memory_ext_from hm hn h

end Sys2Proof.Machine
end

