-- ==== Sys2Proof/Laws/State.lean ====
section
/-! SUPPORT. One lemma per field per named update, so that no proof unfolds a record update. -/

namespace Sys2Proof.Machine

@[simp] theorem setAcc_mem (v : Int) (s : State) : (setAcc v s).mem = s.mem := rfl
@[simp] theorem setAcc_acc (v : Int) (s : State) : (setAcc v s).acc = v := rfl
@[simp] theorem setAcc_ic (v : Int) (s : State) : (setAcc v s).ic = s.ic := rfl
@[simp] theorem setAcc_ir (v : Int) (s : State) : (setAcc v s).ir = s.ir := rfl
@[simp] theorem setAcc_opc (v : Int) (s : State) : (setAcc v s).opc = s.opc := rfl
@[simp] theorem setAcc_opd (v : Int) (s : State) : (setAcc v s).opd = s.opd := rfl
@[simp] theorem setAcc_pf (v : Int) (s : State) : (setAcc v s).pf = s.pf := rfl
@[simp] theorem setAcc_phase (v : Int) (s : State) : (setAcc v s).phase = s.phase := rfl
@[simp] theorem setAcc_cause (v : Int) (s : State) : (setAcc v s).cause = s.cause := rfl
@[simp] theorem setAcc_rdwait (v : Int) (s : State) : (setAcc v s).rdwait = s.rdwait := rfl
@[simp] theorem setAcc_source (v : Int) (s : State) : (setAcc v s).source = s.source := rfl
@[simp] theorem setAcc_input (v : Int) (s : State) : (setAcc v s).input = s.input := rfl
@[simp] theorem setAcc_output (v : Int) (s : State) : (setAcc v s).output = s.output := rfl
@[simp] theorem setAcc_readout (v : Int) (s : State) : (setAcc v s).readout = s.readout := rfl

@[simp] theorem setIc_mem (a : Nat) (s : State) : (setIc a s).mem = s.mem := rfl
@[simp] theorem setIc_acc (a : Nat) (s : State) : (setIc a s).acc = s.acc := rfl
@[simp] theorem setIc_ic (a : Nat) (s : State) : (setIc a s).ic = a := rfl
@[simp] theorem setIc_ir (a : Nat) (s : State) : (setIc a s).ir = s.ir := rfl
@[simp] theorem setIc_opc (a : Nat) (s : State) : (setIc a s).opc = s.opc := rfl
@[simp] theorem setIc_opd (a : Nat) (s : State) : (setIc a s).opd = s.opd := rfl
@[simp] theorem setIc_pf (a : Nat) (s : State) : (setIc a s).pf = s.pf := rfl
@[simp] theorem setIc_phase (a : Nat) (s : State) : (setIc a s).phase = s.phase := rfl
@[simp] theorem setIc_cause (a : Nat) (s : State) : (setIc a s).cause = s.cause := rfl
@[simp] theorem setIc_rdwait (a : Nat) (s : State) : (setIc a s).rdwait = s.rdwait := rfl
@[simp] theorem setIc_source (a : Nat) (s : State) : (setIc a s).source = s.source := rfl
@[simp] theorem setIc_input (a : Nat) (s : State) : (setIc a s).input = s.input := rfl
@[simp] theorem setIc_output (a : Nat) (s : State) : (setIc a s).output = s.output := rfl
@[simp] theorem setIc_readout (a : Nat) (s : State) : (setIc a s).readout = s.readout := rfl

@[simp] theorem advance_mem (s : State) : (advance s).mem = s.mem := rfl
@[simp] theorem advance_acc (s : State) : (advance s).acc = s.acc := rfl
@[simp] theorem advance_ic (s : State) : (advance s).ic = s.ic + 1 := rfl
@[simp] theorem advance_ir (s : State) : (advance s).ir = s.ir := rfl
@[simp] theorem advance_opc (s : State) : (advance s).opc = s.opc := rfl
@[simp] theorem advance_opd (s : State) : (advance s).opd = s.opd := rfl
@[simp] theorem advance_pf (s : State) : (advance s).pf = s.pf := rfl
@[simp] theorem advance_phase (s : State) : (advance s).phase = s.phase := rfl
@[simp] theorem advance_cause (s : State) : (advance s).cause = s.cause := rfl
@[simp] theorem advance_rdwait (s : State) : (advance s).rdwait = s.rdwait := rfl
@[simp] theorem advance_source (s : State) : (advance s).source = s.source := rfl
@[simp] theorem advance_input (s : State) : (advance s).input = s.input := rfl
@[simp] theorem advance_output (s : State) : (advance s).output = s.output := rfl
@[simp] theorem advance_readout (s : State) : (advance s).readout = s.readout := rfl

@[simp] theorem putWord_mem (a : Nat) (v : Int) (s : State) : (putWord a v s).mem = memSet s.mem a v := rfl
@[simp] theorem putWord_acc (a : Nat) (v : Int) (s : State) : (putWord a v s).acc = s.acc := rfl
@[simp] theorem putWord_ic (a : Nat) (v : Int) (s : State) : (putWord a v s).ic = s.ic := rfl
@[simp] theorem putWord_ir (a : Nat) (v : Int) (s : State) : (putWord a v s).ir = s.ir := rfl
@[simp] theorem putWord_opc (a : Nat) (v : Int) (s : State) : (putWord a v s).opc = s.opc := rfl
@[simp] theorem putWord_opd (a : Nat) (v : Int) (s : State) : (putWord a v s).opd = s.opd := rfl
@[simp] theorem putWord_pf (a : Nat) (v : Int) (s : State) : (putWord a v s).pf = s.pf := rfl
@[simp] theorem putWord_phase (a : Nat) (v : Int) (s : State) : (putWord a v s).phase = s.phase := rfl
@[simp] theorem putWord_cause (a : Nat) (v : Int) (s : State) : (putWord a v s).cause = s.cause := rfl
@[simp] theorem putWord_rdwait (a : Nat) (v : Int) (s : State) : (putWord a v s).rdwait = s.rdwait := rfl
@[simp] theorem putWord_source (a : Nat) (v : Int) (s : State) : (putWord a v s).source = s.source := rfl
@[simp] theorem putWord_input (a : Nat) (v : Int) (s : State) : (putWord a v s).input = s.input := rfl
@[simp] theorem putWord_output (a : Nat) (v : Int) (s : State) : (putWord a v s).output = s.output := rfl
@[simp] theorem putWord_readout (a : Nat) (v : Int) (s : State) : (putWord a v s).readout = s.readout := rfl

@[simp] theorem emit_mem (e : Event) (s : State) : (emit e s).mem = s.mem := rfl
@[simp] theorem emit_acc (e : Event) (s : State) : (emit e s).acc = s.acc := rfl
@[simp] theorem emit_ic (e : Event) (s : State) : (emit e s).ic = s.ic := rfl
@[simp] theorem emit_ir (e : Event) (s : State) : (emit e s).ir = s.ir := rfl
@[simp] theorem emit_opc (e : Event) (s : State) : (emit e s).opc = s.opc := rfl
@[simp] theorem emit_opd (e : Event) (s : State) : (emit e s).opd = s.opd := rfl
@[simp] theorem emit_pf (e : Event) (s : State) : (emit e s).pf = s.pf := rfl
@[simp] theorem emit_phase (e : Event) (s : State) : (emit e s).phase = s.phase := rfl
@[simp] theorem emit_cause (e : Event) (s : State) : (emit e s).cause = s.cause := rfl
@[simp] theorem emit_rdwait (e : Event) (s : State) : (emit e s).rdwait = s.rdwait := rfl
@[simp] theorem emit_source (e : Event) (s : State) : (emit e s).source = s.source := rfl
@[simp] theorem emit_input (e : Event) (s : State) : (emit e s).input = s.input := rfl
@[simp] theorem emit_output (e : Event) (s : State) : (emit e s).output = s.output ++ [e] := rfl
@[simp] theorem emit_readout (e : Event) (s : State) : (emit e s).readout = s.readout := rfl

@[simp] theorem setRdwait_mem (b : Bool) (s : State) : (setRdwait b s).mem = s.mem := rfl
@[simp] theorem setRdwait_acc (b : Bool) (s : State) : (setRdwait b s).acc = s.acc := rfl
@[simp] theorem setRdwait_ic (b : Bool) (s : State) : (setRdwait b s).ic = s.ic := rfl
@[simp] theorem setRdwait_ir (b : Bool) (s : State) : (setRdwait b s).ir = s.ir := rfl
@[simp] theorem setRdwait_opc (b : Bool) (s : State) : (setRdwait b s).opc = s.opc := rfl
@[simp] theorem setRdwait_opd (b : Bool) (s : State) : (setRdwait b s).opd = s.opd := rfl
@[simp] theorem setRdwait_pf (b : Bool) (s : State) : (setRdwait b s).pf = s.pf := rfl
@[simp] theorem setRdwait_phase (b : Bool) (s : State) : (setRdwait b s).phase = s.phase := rfl
@[simp] theorem setRdwait_cause (b : Bool) (s : State) : (setRdwait b s).cause = s.cause := rfl
@[simp] theorem setRdwait_rdwait (b : Bool) (s : State) : (setRdwait b s).rdwait = b := rfl
@[simp] theorem setRdwait_source (b : Bool) (s : State) : (setRdwait b s).source = s.source := rfl
@[simp] theorem setRdwait_input (b : Bool) (s : State) : (setRdwait b s).input = s.input := rfl
@[simp] theorem setRdwait_output (b : Bool) (s : State) : (setRdwait b s).output = s.output := rfl
@[simp] theorem setRdwait_readout (b : Bool) (s : State) : (setRdwait b s).readout = s.readout := rfl

@[simp] theorem setInput_mem (ls : List Line) (s : State) : (setInput ls s).mem = s.mem := rfl
@[simp] theorem setInput_acc (ls : List Line) (s : State) : (setInput ls s).acc = s.acc := rfl
@[simp] theorem setInput_ic (ls : List Line) (s : State) : (setInput ls s).ic = s.ic := rfl
@[simp] theorem setInput_ir (ls : List Line) (s : State) : (setInput ls s).ir = s.ir := rfl
@[simp] theorem setInput_opc (ls : List Line) (s : State) : (setInput ls s).opc = s.opc := rfl
@[simp] theorem setInput_opd (ls : List Line) (s : State) : (setInput ls s).opd = s.opd := rfl
@[simp] theorem setInput_pf (ls : List Line) (s : State) : (setInput ls s).pf = s.pf := rfl
@[simp] theorem setInput_phase (ls : List Line) (s : State) : (setInput ls s).phase = s.phase := rfl
@[simp] theorem setInput_cause (ls : List Line) (s : State) : (setInput ls s).cause = s.cause := rfl
@[simp] theorem setInput_rdwait (ls : List Line) (s : State) : (setInput ls s).rdwait = s.rdwait := rfl
@[simp] theorem setInput_source (ls : List Line) (s : State) : (setInput ls s).source = s.source := rfl
@[simp] theorem setInput_input (ls : List Line) (s : State) : (setInput ls s).input = ls := rfl
@[simp] theorem setInput_output (ls : List Line) (s : State) : (setInput ls s).output = s.output := rfl
@[simp] theorem setInput_readout (ls : List Line) (s : State) : (setInput ls s).readout = s.readout := rfl

@[simp] theorem raise_mem (c : Cause) (s : State) : (raise c s).mem = s.mem := rfl
@[simp] theorem raise_acc (c : Cause) (s : State) : (raise c s).acc = s.acc := rfl
@[simp] theorem raise_ic (c : Cause) (s : State) : (raise c s).ic = s.ic := rfl
@[simp] theorem raise_ir (c : Cause) (s : State) : (raise c s).ir = s.ir := rfl
@[simp] theorem raise_opc (c : Cause) (s : State) : (raise c s).opc = s.opc := rfl
@[simp] theorem raise_opd (c : Cause) (s : State) : (raise c s).opd = s.opd := rfl
@[simp] theorem raise_pf (c : Cause) (s : State) : (raise c s).pf = false := rfl
@[simp] theorem raise_phase (c : Cause) (s : State) : (raise c s).phase = .haltedError := rfl
@[simp] theorem raise_cause (c : Cause) (s : State) : (raise c s).cause = c := rfl
@[simp] theorem raise_rdwait (c : Cause) (s : State) : (raise c s).rdwait = s.rdwait := rfl
@[simp] theorem raise_source (c : Cause) (s : State) : (raise c s).source = s.source := rfl
@[simp] theorem raise_input (c : Cause) (s : State) : (raise c s).input = s.input := rfl
@[simp] theorem raise_output (c : Cause) (s : State) : (raise c s).output = s.output := rfl
@[simp] theorem raise_readout (c : Cause) (s : State) : (raise c s).readout = s.readout := rfl

@[simp] theorem haltNormal_mem (s : State) : (haltNormal s).mem = s.mem := rfl
@[simp] theorem haltNormal_acc (s : State) : (haltNormal s).acc = s.acc := rfl
@[simp] theorem haltNormal_ic (s : State) : (haltNormal s).ic = s.ic := rfl
@[simp] theorem haltNormal_ir (s : State) : (haltNormal s).ir = s.ir := rfl
@[simp] theorem haltNormal_opc (s : State) : (haltNormal s).opc = s.opc := rfl
@[simp] theorem haltNormal_opd (s : State) : (haltNormal s).opd = s.opd := rfl
@[simp] theorem haltNormal_pf (s : State) : (haltNormal s).pf = false := rfl
@[simp] theorem haltNormal_phase (s : State) : (haltNormal s).phase = .haltedNormal := rfl
@[simp] theorem haltNormal_cause (s : State) : (haltNormal s).cause = s.cause := rfl
@[simp] theorem haltNormal_rdwait (s : State) : (haltNormal s).rdwait = s.rdwait := rfl
@[simp] theorem haltNormal_source (s : State) : (haltNormal s).source = s.source := rfl
@[simp] theorem haltNormal_input (s : State) : (haltNormal s).input = s.input := rfl
@[simp] theorem haltNormal_output (s : State) : (haltNormal s).output = s.output := rfl
@[simp] theorem haltNormal_readout (s : State) : (haltNormal s).readout = s.readout := rfl

@[simp] theorem issueRead_mem (s : State) : (issueRead s).mem = s.mem := rfl
@[simp] theorem issueRead_acc (s : State) : (issueRead s).acc = s.acc := rfl
@[simp] theorem issueRead_ic (s : State) : (issueRead s).ic = s.ic := rfl
@[simp] theorem issueRead_ir (s : State) : (issueRead s).ir = s.ir := rfl
@[simp] theorem issueRead_opc (s : State) : (issueRead s).opc = s.opc := rfl
@[simp] theorem issueRead_opd (s : State) : (issueRead s).opd = s.opd := rfl
@[simp] theorem issueRead_pf (s : State) : (issueRead s).pf = s.pf := rfl
@[simp] theorem issueRead_phase (s : State) : (issueRead s).phase = s.phase := rfl
@[simp] theorem issueRead_cause (s : State) : (issueRead s).cause = s.cause := rfl
@[simp] theorem issueRead_rdwait (s : State) : (issueRead s).rdwait = true := rfl
@[simp] theorem issueRead_source (s : State) : (issueRead s).source = s.source := rfl
@[simp] theorem issueRead_input (s : State) : (issueRead s).input = s.input := rfl
@[simp] theorem issueRead_output (s : State) : (issueRead s).output = s.output ++ [.prompt] := rfl
@[simp] theorem issueRead_readout (s : State) : (issueRead s).readout = s.readout := rfl

@[simp] theorem loadSuccess_mem (s : State) : (loadSuccess s).mem = s.mem := rfl
@[simp] theorem loadSuccess_acc (s : State) : (loadSuccess s).acc = s.acc := rfl
@[simp] theorem loadSuccess_ic (s : State) : (loadSuccess s).ic = s.ic := rfl
@[simp] theorem loadSuccess_ir (s : State) : (loadSuccess s).ir = s.ir := rfl
@[simp] theorem loadSuccess_opc (s : State) : (loadSuccess s).opc = s.opc := rfl
@[simp] theorem loadSuccess_opd (s : State) : (loadSuccess s).opd = s.opd := rfl
@[simp] theorem loadSuccess_pf (s : State) : (loadSuccess s).pf = true := rfl
@[simp] theorem loadSuccess_phase (s : State) : (loadSuccess s).phase = .running := rfl
@[simp] theorem loadSuccess_cause (s : State) : (loadSuccess s).cause = s.cause := rfl
@[simp] theorem loadSuccess_rdwait (s : State) : (loadSuccess s).rdwait = s.rdwait := rfl
@[simp] theorem loadSuccess_source (s : State) : (loadSuccess s).source = s.source := rfl
@[simp] theorem loadSuccess_input (s : State) : (loadSuccess s).input = s.input := rfl
@[simp] theorem loadSuccess_output (s : State) : (loadSuccess s).output = s.output ++ [.loadDone] ++ [.execBegin] := rfl
@[simp] theorem loadSuccess_readout (s : State) : (loadSuccess s).readout = s.readout := rfl

@[simp] theorem fetch_mem (s : State) : (fetch s).mem = s.mem := rfl
@[simp] theorem fetch_acc (s : State) : (fetch s).acc = s.acc := rfl
@[simp] theorem fetch_ic (s : State) : (fetch s).ic = s.ic := rfl
@[simp] theorem fetch_ir (s : State) : (fetch s).ir = memGet s.mem s.ic := rfl
@[simp] theorem fetch_opc (s : State) : (fetch s).opc = s.opc := rfl
@[simp] theorem fetch_opd (s : State) : (fetch s).opd = s.opd := rfl
@[simp] theorem fetch_pf (s : State) : (fetch s).pf = s.pf := rfl
@[simp] theorem fetch_phase (s : State) : (fetch s).phase = s.phase := rfl
@[simp] theorem fetch_cause (s : State) : (fetch s).cause = s.cause := rfl
@[simp] theorem fetch_rdwait (s : State) : (fetch s).rdwait = s.rdwait := rfl
@[simp] theorem fetch_source (s : State) : (fetch s).source = s.source := rfl
@[simp] theorem fetch_input (s : State) : (fetch s).input = s.input := rfl
@[simp] theorem fetch_output (s : State) : (fetch s).output = s.output := rfl
@[simp] theorem fetch_readout (s : State) : (fetch s).readout = s.readout := rfl

@[simp] theorem decodeFields_mem (s : State) : (decodeFields s).mem = s.mem := rfl
@[simp] theorem decodeFields_acc (s : State) : (decodeFields s).acc = s.acc := rfl
@[simp] theorem decodeFields_ic (s : State) : (decodeFields s).ic = s.ic := rfl
@[simp] theorem decodeFields_ir (s : State) : (decodeFields s).ir = s.ir := rfl
@[simp] theorem decodeFields_opc (s : State) : (decodeFields s).opc = opcOf s.ir := rfl
@[simp] theorem decodeFields_opd (s : State) : (decodeFields s).opd = opdOf s.ir := rfl
@[simp] theorem decodeFields_pf (s : State) : (decodeFields s).pf = s.pf := rfl
@[simp] theorem decodeFields_phase (s : State) : (decodeFields s).phase = s.phase := rfl
@[simp] theorem decodeFields_cause (s : State) : (decodeFields s).cause = s.cause := rfl
@[simp] theorem decodeFields_rdwait (s : State) : (decodeFields s).rdwait = s.rdwait := rfl
@[simp] theorem decodeFields_source (s : State) : (decodeFields s).source = s.source := rfl
@[simp] theorem decodeFields_input (s : State) : (decodeFields s).input = s.input := rfl
@[simp] theorem decodeFields_output (s : State) : (decodeFields s).output = s.output := rfl
@[simp] theorem decodeFields_readout (s : State) : (decodeFields s).readout = s.readout := rfl

@[simp] theorem fetchDecode_mem (s : State) : (fetchDecode s).mem = s.mem := rfl
@[simp] theorem fetchDecode_acc (s : State) : (fetchDecode s).acc = s.acc := rfl
@[simp] theorem fetchDecode_ic (s : State) : (fetchDecode s).ic = s.ic := rfl
@[simp] theorem fetchDecode_ir (s : State) : (fetchDecode s).ir = memGet s.mem s.ic := rfl
@[simp] theorem fetchDecode_opc (s : State) : (fetchDecode s).opc = opcOf (memGet s.mem s.ic) := rfl
@[simp] theorem fetchDecode_opd (s : State) : (fetchDecode s).opd = opdOf (memGet s.mem s.ic) := rfl
@[simp] theorem fetchDecode_pf (s : State) : (fetchDecode s).pf = s.pf := rfl
@[simp] theorem fetchDecode_phase (s : State) : (fetchDecode s).phase = s.phase := rfl
@[simp] theorem fetchDecode_cause (s : State) : (fetchDecode s).cause = s.cause := rfl
@[simp] theorem fetchDecode_rdwait (s : State) : (fetchDecode s).rdwait = s.rdwait := rfl
@[simp] theorem fetchDecode_source (s : State) : (fetchDecode s).source = s.source := rfl
@[simp] theorem fetchDecode_input (s : State) : (fetchDecode s).input = s.input := rfl
@[simp] theorem fetchDecode_output (s : State) : (fetchDecode s).output = s.output := rfl
@[simp] theorem fetchDecode_readout (s : State) : (fetchDecode s).readout = s.readout := rfl

@[simp] theorem supplyLine_mem (l : Line) (s : State) : (supplyLine l s).mem = s.mem := rfl
@[simp] theorem supplyLine_acc (l : Line) (s : State) : (supplyLine l s).acc = s.acc := rfl
@[simp] theorem supplyLine_ic (l : Line) (s : State) : (supplyLine l s).ic = s.ic := rfl
@[simp] theorem supplyLine_ir (l : Line) (s : State) : (supplyLine l s).ir = s.ir := rfl
@[simp] theorem supplyLine_opc (l : Line) (s : State) : (supplyLine l s).opc = s.opc := rfl
@[simp] theorem supplyLine_opd (l : Line) (s : State) : (supplyLine l s).opd = s.opd := rfl
@[simp] theorem supplyLine_pf (l : Line) (s : State) : (supplyLine l s).pf = s.pf := rfl
@[simp] theorem supplyLine_phase (l : Line) (s : State) : (supplyLine l s).phase = s.phase := rfl
@[simp] theorem supplyLine_cause (l : Line) (s : State) : (supplyLine l s).cause = s.cause := rfl
@[simp] theorem supplyLine_rdwait (l : Line) (s : State) : (supplyLine l s).rdwait = s.rdwait := rfl
@[simp] theorem supplyLine_source (l : Line) (s : State) : (supplyLine l s).source = s.source := rfl
@[simp] theorem supplyLine_input (l : Line) (s : State) : (supplyLine l s).input = s.input ++ [l] := rfl
@[simp] theorem supplyLine_output (l : Line) (s : State) : (supplyLine l s).output = s.output := rfl
@[simp] theorem supplyLine_readout (l : Line) (s : State) : (supplyLine l s).readout = s.readout := rfl

end Sys2Proof.Machine
end

