-- ==== Sys2Proof/Laws/Ops.lean ====
section
/-! SUPPORT. What each shared operation can do, said once: callers cite these and do not unfold the operation. -/

namespace Sys2Proof.Machine

/-- Cast of an operand: the address exists exactly when it has two digits. -/
@[simp] theorem validAddr_natCast (a : Nat) : validAddr (a : Int) ↔ a < Config.memSize := by
  simp only [validAddr, memSize_eq]; omega

theorem memRead_of_valid {a : Int} (s : State) (k : Int → Result) (h : validAddr a) :
    memRead a s k = k (memGet s.mem a.toNat) := by
  unfold memRead; rw [if_pos h]

theorem memRead_next {a : Int} {s t : State} {k : Int → Result} (h : memRead a s k = .next t) :
    validAddr a ∧ k (memGet s.mem a.toNat) = .next t := by
  unfold memRead at h
  split at h
  · exact ⟨‹_›, h⟩
  · cases h

theorem readOperand_of_lt {a : Nat} (s : State) (k : Int → Result) (h : a < Config.memSize) :
    readOperand a s k = k (memGet s.mem a) := by
  rw [readOperand, memRead_of_valid s k ((validAddr_natCast a).2 h), Int.toNat_natCast]

theorem readOperand_next {a : Nat} {s t : State} {k : Int → Result} (h : readOperand a s k = .next t) :
    a < Config.memSize ∧ k (memGet s.mem a) = .next t := by
  have := memRead_next h
  rwa [validAddr_natCast, Int.toNat_natCast] at this

theorem memWrite_of_valid {a v : Int} (s : State) (k : State → Result) (ha : validAddr a) (hv : inWord v) :
    memWrite a v s k = k (putWord a.toNat v s) := by
  unfold memWrite; rw [if_pos ha, if_pos hv]

theorem memWrite_next {a v : Int} {s t : State} {k : State → Result} (h : memWrite a v s k = .next t) :
    validAddr a ∧ inWord v ∧ k (putWord a.toNat v s) = .next t := by
  unfold memWrite at h
  split at h
  · split at h
    · exact ⟨‹_›, ‹_›, h⟩
    · cases h
  · cases h

theorem writeOperandAndAdvance_of_valid {a v : Int} (s : State) (ha : validAddr a) (hv : inWord v) :
    writeOperandAndAdvance a v s = .next (advance (putWord a.toNat v s)) :=
  memWrite_of_valid s _ ha hv

theorem writeOperandAndAdvance_next {a v : Int} {s t : State} (h : writeOperandAndAdvance a v s = .next t) :
    validAddr a ∧ inWord v ∧ t = advance (putWord a.toNat v s) := by
  obtain ⟨ha, hv, ht⟩ := memWrite_next h
  cases ht
  exact ⟨ha, hv, rfl⟩

theorem overflowCheck_of_inWord {s : State} (h : inWord s.acc) : overflowCheck s = advance s := by
  unfold overflowCheck; rw [if_pos h]

theorem overflowCheck_of_not_inWord {s : State} (h : ¬ inWord s.acc) : overflowCheck s = raise .accOverflow s := by
  unfold overflowCheck; rw [if_neg h]

/-- The checked write of the accumulator advances or stops; nothing else (R130). -/
theorem setAccChecked_cases (v : Int) (s : State) :
    (inWord v ∧ setAccChecked v s = advance (setAcc v s)) ∨
    (¬ inWord v ∧ setAccChecked v s = raise .accOverflow (setAcc v s)) := by
  by_cases h : inWord v
  · exact .inl ⟨h, overflowCheck_of_inWord h⟩
  · exact .inr ⟨h, overflowCheck_of_not_inWord h⟩

/-- Everything the completion of a READ can do (R110, R112). -/
theorem completeRead_cases {a : Int} {s t : State} (h : completeRead a s = .next t) :
    (s.input = [] ∧ t = s) ∨
    (∃ line rest v, s.input = line :: rest ∧ accept line = some v ∧ validAddr a ∧ inWord v ∧
      t = advance (putWord a.toNat v (setRdwait false (setInput rest s)))) ∨
    (∃ line rest, s.input = line :: rest ∧ accept line = none ∧
      t = emit .reject (setRdwait false (setInput rest s))) := by
  unfold completeRead at h
  split at h
  · cases h; exact .inl ⟨‹_›, rfl⟩
  · rename_i line rest hin
    dsimp only at h
    split at h
    · rename_i v hv
      obtain ⟨ha, hw, ht⟩ := writeOperandAndAdvance_next h
      exact .inr (.inl ⟨line, rest, v, hin, hv, ha, hw, ht⟩)
    · rename_i hv
      cases h
      exact .inr (.inr ⟨line, rest, hin, hv, rfl⟩)

/-- An accepted line spells a Word (R111). -/
theorem accept_inWord {line : Line} {v : Int} (h : accept line = some v) : inWord v := by
  unfold accept at h
  split at h
  · split at h
    · cases h; assumption
    · cases h
  · cases h

/-- Everything a step can do, by phase (R40, R94). -/
theorem step_cases {s t : State} (h : step s = .next t) :
    (s.phase = .idle ∧ t = startRun s) ∨
    (s.phase = .loading ∧ t = runLoader s) ∨
    (s.phase = .running ∧ coreStep s = .next t) ∨
    ((s.phase = .haltedNormal ∨ s.phase = .haltedError) ∧ t = closeRun s) := by
  unfold step at h
  split at h
  · cases h; exact .inl ⟨‹_›, rfl⟩
  · cases h; exact .inr (.inl ⟨‹_›, rfl⟩)
  · exact .inr (.inr (.inl ⟨‹_›, h⟩))
  · cases h; exact .inr (.inr (.inr ⟨.inl ‹_›, rfl⟩))
  · cases h; exact .inr (.inr (.inr ⟨.inr ‹_›, rfl⟩))

/-- Everything a step of the core can do (R94). -/
theorem coreStep_cases {s t : State} (h : coreStep s = .next t) :
    (s.rdwait = true ∧ completeRead s.opd s = .next t) ∨
    (s.rdwait = false ∧ s.pf = false ∧ t = s) ∨
    (s.rdwait = false ∧ s.pf = true ∧ ¬ s.ic < Config.memSize ∧ t = raise .counterOutOfRange s) ∨
    (s.rdwait = false ∧ s.pf = true ∧ s.ic < Config.memSize ∧
      ((∃ opc opd, decode (memGet s.mem s.ic) = .unknownOpcode opc opd ∧
          t = raise .unknownOpcode (fetchDecode s)) ∨
        ∃ i, decode (memGet s.mem s.ic) = .instr i ∧ exec i (fetchDecode s) = .next t)) := by
  unfold coreStep at h
  split at h
  · exact .inl ⟨‹_›, h⟩
  · have hr : s.rdwait = false := by simpa using ‹¬ s.rdwait = true›
    split at h
    · split at h
      · refine .inr (.inr (.inr ⟨hr, ‹_›, ‹_›, ?_⟩))
        split at h
        · exact .inr ⟨_, ‹_›, h⟩
        · cases h; exact .inl ⟨_, _, ‹_›, rfl⟩
      · cases h; exact .inr (.inr (.inl ⟨hr, ‹_›, ‹_›, rfl⟩))
    · cases h; exact .inr (.inl ⟨hr, by simpa using ‹¬ s.pf = true›, rfl⟩)

/-- The READ arm: issue, or completion of a waiting READ (R110). -/
theorem execRead_cases {a : Nat} {s t : State} (h : execRead a s = .next t) :
    (s.rdwait = false ∧ t = issueRead s) ∨ (s.rdwait = true ∧ completeRead (a : Int) s = .next t) := by
  unfold execRead at h
  split at h
  · exact .inr ⟨‹_›, h⟩
  · cases h; exact .inl ⟨by simpa using ‹¬ s.rdwait = true›, rfl⟩

@[simp] theorem startRun_none {s : State} (h : s.source = none) : startRun s = s := by
  unfold startRun; rw [h]

@[simp] theorem startRun_some {s : State} {src : ProgramSource} (h : s.source = some src) :
    startRun s = { s with phase := .loading } := by
  unfold startRun; rw [h]

/-- The run driver acts once: it appends the notices and takes the readout (R178, R179). -/
theorem closeRun_cases (s : State) :
    ((∃ r, s.readout = some r) ∧ closeRun s = s) ∨
    (s.readout = none ∧
      closeRun s = { s with output := s.output ++ closingNotices s, readout := some (takeReadout s) }) := by
  unfold closeRun
  split
  · exact .inl ⟨⟨_, ‹_›⟩, rfl⟩
  · exact .inr ⟨‹_›, rfl⟩

@[simp] theorem closeRun_mem (s : State) : (closeRun s).mem = s.mem := by unfold closeRun; split <;> rfl
@[simp] theorem closeRun_acc (s : State) : (closeRun s).acc = s.acc := by unfold closeRun; split <;> rfl
@[simp] theorem closeRun_ic (s : State) : (closeRun s).ic = s.ic := by unfold closeRun; split <;> rfl
@[simp] theorem closeRun_ir (s : State) : (closeRun s).ir = s.ir := by unfold closeRun; split <;> rfl
@[simp] theorem closeRun_opc (s : State) : (closeRun s).opc = s.opc := by unfold closeRun; split <;> rfl
@[simp] theorem closeRun_opd (s : State) : (closeRun s).opd = s.opd := by unfold closeRun; split <;> rfl
@[simp] theorem closeRun_pf (s : State) : (closeRun s).pf = s.pf := by unfold closeRun; split <;> rfl
@[simp] theorem closeRun_phase (s : State) : (closeRun s).phase = s.phase := by unfold closeRun; split <;> rfl
@[simp] theorem closeRun_cause (s : State) : (closeRun s).cause = s.cause := by unfold closeRun; split <;> rfl
@[simp] theorem closeRun_rdwait (s : State) : (closeRun s).rdwait = s.rdwait := by unfold closeRun; split <;> rfl
@[simp] theorem closeRun_source (s : State) : (closeRun s).source = s.source := by unfold closeRun; split <;> rfl
@[simp] theorem closeRun_input (s : State) : (closeRun s).input = s.input := by unfold closeRun; split <;> rfl

/-- What the loader's loop leaves: success, or one of the three stops of R202, over memory it has written. -/
theorem loadLines_cases (lines : List Line) (readError : Bool) (i : Nat) (s : State) :
    ∃ m : Memory, (loadLines lines readError i s = loadSuccess { s with mem := m }) ∨
      ∃ c, isLoadCause c = true ∧ c ≠ .loadNotFound ∧ loadLines lines readError i s = raise c { s with mem := m } := by
  induction lines generalizing i s with
  | nil =>
    refine ⟨s.mem, ?_⟩
    cases readError
    · exact .inl rfl
    · exact .inr ⟨.loadUnreadable, rfl, by decide, rfl⟩
  | cons line rest ih =>
    by_cases hi : i = Config.memSize
    · exact ⟨s.mem, .inr ⟨.loadTooManyWords, rfl, by decide, by simp only [loadLines, hi, if_true]⟩⟩
    · cases ha : accept line with
      | none => exact ⟨s.mem, .inr ⟨.loadBadToken, rfl, by decide, by simp only [loadLines, hi, if_false, ha]⟩⟩
      | some v =>
        obtain ⟨m, hm⟩ := ih (i + 1) (putWord i v s)
        have hl : loadLines (line :: rest) readError i s = loadLines rest readError (i + 1) (putWord i v s) := by
          simp only [loadLines, hi, if_false, ha]
        rw [hl]
        exact ⟨m, hm⟩

end Sys2Proof.Machine
end

