-- ==== Sys2Proof/Laws/Exec.lean ====
section
/-! SUPPORT. One inversion lemma per meaning: if it answers a next state, what that state is. -/

namespace Sys2Proof.Machine

theorem execWrite_next {a : Nat} {s t : State} (h : execWrite a s = .next t) :
    a < Config.memSize ∧ t = advance (emit (.value (memGet s.mem a)) s) := by
  obtain ⟨ha, ht⟩ := readOperand_next h
  cases ht
  exact ⟨ha, rfl⟩

theorem execLoad_next {a : Nat} {s t : State} (h : execLoad a s = .next t) :
    a < Config.memSize ∧ t = advance (setAcc (memGet s.mem a) s) := by
  obtain ⟨ha, ht⟩ := readOperand_next h
  cases ht
  exact ⟨ha, rfl⟩

theorem execStore_next {a : Nat} {s t : State} (h : execStore a s = .next t) :
    a < Config.memSize ∧ inWord s.acc ∧ t = advance (putWord a s.acc s) := by
  obtain ⟨ha, hv, ht⟩ := writeOperandAndAdvance_next h
  rw [validAddr_natCast] at ha
  rw [Int.toNat_natCast] at ht
  exact ⟨ha, hv, ht⟩

theorem execAdd_next {a : Nat} {s t : State} (h : execAdd a s = .next t) :
    a < Config.memSize ∧ t = setAccChecked (s.acc + memGet s.mem a) s := by
  obtain ⟨ha, ht⟩ := readOperand_next h
  cases ht
  exact ⟨ha, rfl⟩

theorem execSubtract_next {a : Nat} {s t : State} (h : execSubtract a s = .next t) :
    a < Config.memSize ∧ t = setAccChecked (s.acc - memGet s.mem a) s := by
  obtain ⟨ha, ht⟩ := readOperand_next h
  cases ht
  exact ⟨ha, rfl⟩

theorem execMultiply_next {a : Nat} {s t : State} (h : execMultiply a s = .next t) :
    a < Config.memSize ∧ t = setAccChecked (s.acc * memGet s.mem a) s := by
  obtain ⟨ha, ht⟩ := readOperand_next h
  cases ht
  exact ⟨ha, rfl⟩

theorem execDivide_next {a : Nat} {s t : State} (h : execDivide a s = .next t) :
    a < Config.memSize ∧
      ((memGet s.mem a = 0 ∧ t = raise .divideByZero s) ∨
        (memGet s.mem a ≠ 0 ∧ t = advance (setAcc (divT s.acc (memGet s.mem a)) s))) := by
  obtain ⟨ha, ht⟩ := readOperand_next h
  cases ht
  refine ⟨ha, ?_⟩
  by_cases hb : memGet s.mem a = 0
  · exact .inl ⟨hb, if_pos hb⟩
  · exact .inr ⟨hb, if_neg hb⟩

theorem execModulo_next {a : Nat} {s t : State} (h : execModulo a s = .next t) :
    a < Config.memSize ∧
      ((memGet s.mem a = 0 ∧ t = raise .moduleByZero s) ∨
        (memGet s.mem a ≠ 0 ∧ t = setAccChecked (modT s.acc (memGet s.mem a)) s)) := by
  obtain ⟨ha, ht⟩ := readOperand_next h
  cases ht
  refine ⟨ha, ?_⟩
  by_cases hb : memGet s.mem a = 0
  · exact .inl ⟨hb, if_pos hb⟩
  · exact .inr ⟨hb, if_neg hb⟩

theorem execBranch_next {a : Nat} {s t : State} (h : execBranch a s = .next t) : t = setIc a s := by
  cases h; rfl

theorem execBranchNeg_next {a : Nat} {s t : State} (h : execBranchNeg a s = .next t) :
    (s.acc < 0 ∧ t = setIc a s) ∨ (0 ≤ s.acc ∧ t = advance s) := by
  unfold execBranchNeg at h
  split at h <;> cases h
  · exact .inl ⟨‹_›, rfl⟩
  · exact .inr ⟨by omega, rfl⟩

theorem execBranchZero_next {a : Nat} {s t : State} (h : execBranchZero a s = .next t) :
    (s.acc = 0 ∧ t = setIc a s) ∨ (s.acc ≠ 0 ∧ t = advance s) := by
  unfold execBranchZero at h
  split at h <;> cases h
  · exact .inl ⟨‹_›, rfl⟩
  · exact .inr ⟨‹_›, rfl⟩

theorem execHalt_next {n : Nat} {s t : State} (h : execHalt n s = .next t) : t = haltNormal s := by
  cases h; rfl

/-- An instruction that dispatch finds has its operation code, and its operand is the decoded one (R84, R93). -/
theorem dispatch_instr {opc opd : Int} {i : Instr} (h : dispatch opc opd = .instr i) :
    opc = (i.code : Int) ∧ i.operand = opd.toNat := by
  unfold dispatch at h
  split at h <;> cases h <;> exact ⟨rfl, rfl⟩

/-- An unknown operation code is reported with both fields (R93). -/
theorem dispatch_unknown {opc opd p q : Int} (h : dispatch opc opd = .unknownOpcode p q) : p = opc ∧ q = opd := by
  unfold dispatch at h
  split at h <;> cases h
  exact ⟨rfl, rfl⟩

end Sys2Proof.Machine
end

