-- ==== Sys2Proof/Laws/PerInstr.lean ====
section
/-! SUPPORT. Families of statements about every instruction as syntax, one lemma per constructor. -/

namespace Sys2Proof.Laws

/-- The decoded fields of an instruction's word are its code and its operand (R81, R84). -/
def EncodingFields.Statement (i : Instr) : Prop :=
  i.wellFormed = true → opcOf (encode i) = (i.code : Int) ∧ opdOf (encode i) = (i.operand : Int)

theorem EncodingFields.of_lt {i : Instr} (h : i.operand < 100) :
    opcOf (encode i) = (i.code : Int) ∧ opdOf (encode i) = (i.operand : Int) :=
  ⟨opcOf_fields h, opdOf_fields h⟩

theorem EncodingFields.read (a : Nat) : EncodingFields.Statement (.read a) := fun h =>
  EncodingFields.of_lt (of_decide_eq_true h)
theorem EncodingFields.write (a : Nat) : EncodingFields.Statement (.write a) := fun h =>
  EncodingFields.of_lt (of_decide_eq_true h)
theorem EncodingFields.load (a : Nat) : EncodingFields.Statement (.load a) := fun h =>
  EncodingFields.of_lt (of_decide_eq_true h)
theorem EncodingFields.store (a : Nat) : EncodingFields.Statement (.store a) := fun h =>
  EncodingFields.of_lt (of_decide_eq_true h)
theorem EncodingFields.add (a : Nat) : EncodingFields.Statement (.add a) := fun h =>
  EncodingFields.of_lt (of_decide_eq_true h)
theorem EncodingFields.subtract (a : Nat) : EncodingFields.Statement (.subtract a) := fun h =>
  EncodingFields.of_lt (of_decide_eq_true h)
theorem EncodingFields.divide (a : Nat) : EncodingFields.Statement (.divide a) := fun h =>
  EncodingFields.of_lt (of_decide_eq_true h)
theorem EncodingFields.multiply (a : Nat) : EncodingFields.Statement (.multiply a) := fun h =>
  EncodingFields.of_lt (of_decide_eq_true h)
theorem EncodingFields.modulo (a : Nat) : EncodingFields.Statement (.modulo a) := fun h =>
  EncodingFields.of_lt (of_decide_eq_true h)
theorem EncodingFields.branch (a : Nat) : EncodingFields.Statement (.branch a) := fun h =>
  EncodingFields.of_lt (of_decide_eq_true h)
theorem EncodingFields.branchNeg (a : Nat) : EncodingFields.Statement (.branchNeg a) := fun h =>
  EncodingFields.of_lt (of_decide_eq_true h)
theorem EncodingFields.branchZero (a : Nat) : EncodingFields.Statement (.branchZero a) := fun h =>
  EncodingFields.of_lt (of_decide_eq_true h)
theorem EncodingFields.halt (a : Nat) : EncodingFields.Statement (.halt a) := fun h =>
  EncodingFields.of_lt (of_decide_eq_true h)

end Sys2Proof.Laws
end

