-- ==== Sys2Proof/Tests/Slice0.lean ====
section
/-! SUPPORT. Tests with results taken from spec/95_test_vectors.md and the corner cases of the rules, and for every
statement with hypotheses a witness that meets them. -/

namespace Sys2Proof.Tests

open Sys2Proof.Machine Sys2Proof.Safety

/-! ### Well-formedness refuses an operand of three digits, for every constructor -/

theorem test_wf_refuses_read : (Instr.read 100).wellFormed = false := by decide
theorem test_wf_refuses_write : (Instr.write 100).wellFormed = false := by decide
theorem test_wf_refuses_load : (Instr.load 100).wellFormed = false := by decide
theorem test_wf_refuses_store : (Instr.store 100).wellFormed = false := by decide
theorem test_wf_refuses_add : (Instr.add 100).wellFormed = false := by decide
theorem test_wf_refuses_subtract : (Instr.subtract 100).wellFormed = false := by decide
theorem test_wf_refuses_divide : (Instr.divide 100).wellFormed = false := by decide
theorem test_wf_refuses_multiply : (Instr.multiply 100).wellFormed = false := by decide
theorem test_wf_refuses_module : (Instr.modulo 100).wellFormed = false := by decide
theorem test_wf_refuses_branch : (Instr.branch 100).wellFormed = false := by decide
theorem test_wf_refuses_branchneg : (Instr.branchNeg 100).wellFormed = false := by decide
theorem test_wf_refuses_branchzero : (Instr.branchZero 100).wellFormed = false := by decide
theorem test_wf_refuses_halt : (Instr.halt 100).wellFormed = false := by decide

/-! ### Decode: the words of R84 written out -/

theorem test_decode_read : decode 1007 = .instr (.read 7) := by decide
theorem test_decode_write : decode 1109 = .instr (.write 9) := by decide
theorem test_decode_load : decode 2007 = .instr (.load 7) := by decide
theorem test_decode_store : decode 2109 = .instr (.store 9) := by decide
theorem test_decode_add : decode 3008 = .instr (.add 8) := by decide
theorem test_decode_subtract : decode 3110 = .instr (.subtract 10) := by decide
theorem test_decode_divide : decode 3202 = .instr (.divide 2) := by decide
theorem test_decode_multiply : decode 3312 = .instr (.multiply 12) := by decide
theorem test_decode_module : decode 3413 = .instr (.modulo 13) := by decide
theorem test_decode_branch : decode 4099 = .instr (.branch 99) := by decide
theorem test_decode_branchneg : decode 4107 = .instr (.branchNeg 7) := by decide
theorem test_decode_branchzero : decode 4209 = .instr (.branchZero 9) := by decide
theorem test_decode_halt : decode 4399 = .instr (.halt 99) := by decide
/-- V-DEC: unknown operation codes on both sides of the table, and negative words (D30). -/
theorem test_decode_unknown :
    decode 0 = .unknownOpcode 0 0 ∧ decode 999 = .unknownOpcode 9 99 ∧ decode 1200 = .unknownOpcode 12 0 ∧
      decode 3500 = .unknownOpcode 35 0 ∧ decode 4400 = .unknownOpcode 44 0 ∧ decode 9999 = .unknownOpcode 99 99 ∧
      decode (-1) = .unknownOpcode 0 (-1) ∧ decode (-9999) = .unknownOpcode (-99) (-99) := by decide
theorem test_encode : encode (.read 7) = 1007 ∧ encode (.modulo 99) = 3499 ∧ encode (.halt 0) = 4300 := by decide
theorem test_table_words : decodeTableWord 16 4300 = some (.halt 0) ∧ decodeTableWord 16 500 = none := by decide

/-! ### Console text -/

/-- V-IO: accepted lines. -/
theorem test_accept :
    accept "5".toList = some 5 ∧ accept "-9999".toList = some (-9999) ∧ accept "+0042".toList = some 42 ∧
      accept "-0".toList = some 0 := by decide
/-- V-IO: rejected lines. -/
theorem test_reject :
    accept "10000".toList = none ∧ accept "-10000".toList = none ∧ accept "abc".toList = none ∧ accept [] = none ∧
      accept " 5".toList = none ∧ accept "5.0".toList = none ∧ accept "+".toList = none ∧ accept "+-5".toList = none := by
  decide
/-- R114's examples and R180's wide and negative values. -/
theorem test_fmt :
    fmt4 8 = "+0008".toList ∧ fmt4 0 = "+0000".toList ∧ fmt4 (-42) = "-0042".toList ∧ fmt4 99980001 = "+99980001".toList ∧
      fmt2 6 = "06".toList ∧ fmt2 100 = "100".toList ∧ fmt2 (-7) = "-07".toList := by decide
/-- R96's notation, from L3.1. -/
theorem test_listing :
    listingLine 7 (.instr (.store 20)) = "07: 2120  ; STORE 20".toList ∧
      listingLine 20 (.data 5) = "20: 0005  ; DATA +0005".toList := by decide

/-! ### One step -/

/-- A running core at address `ic` with the given accumulator and memory cells. -/
def running (ic : Nat) (acc : Int) (mem : Memory) : State :=
  { State.reset with phase := .running, pf := true, ic := ic, acc := acc, mem := mem }

/-- The machine waiting for the line of READ 07 at address 05. -/
def waiting (lines : List Line) : State :=
  { running 5 0 [(5, 1007)] with ir := 1007, opc := 10, opd := 7, rdwait := true, input := lines }

/-- The machine with a source, in LOADING. -/
def loading (src : ProgramSource) : State := { State.reset with phase := .loading, source := some src }

/-- The machine stopped by HALT at address 00, before the run is closed. -/
def halted : State :=
  { running 0 0 [(0, 4300)] with phase := .haltedNormal, pf := false, ir := 4300, opc := 43 }

/-- The state a step answers, if it answers one. -/
def after (r : Result) : Option State :=
  match r with
  | .next s => some s
  | .fault _ => none
  | .refused _ => none

/-- Counter, accumulator and cause after one step. -/
def outcome (s : State) : Option (Nat × Int × Cause) := (after (step s)).map fun t => (t.ic, t.acc, t.cause)

/-- V-IO: READ 07 issues. -/
theorem test_read_issue :
    (after (step (running 5 0 [(5, 1007)]))).map (fun t => (t.rdwait, t.output, t.ic)) = some (true, [.prompt], 5) := by
  decide
/-- V-IO: READ 07 completes with `5`. -/
theorem test_read_accept :
    (after (step (waiting ["5".toList]))).map (fun t => (memGet t.mem 7, t.ic, t.rdwait)) = some (5, 6, false) := by
  decide
/-- V-IO: WRITE 05 at 05 prints its own word. -/
theorem test_write_own_word :
    (after (step (running 5 0 [(5, 1105)]))).map (fun t => (t.output, t.ic)) = some ([.value 1105], 6) := by decide
/-- V-LS: LOAD 05 at 05 loads its own word. -/
theorem test_load_own_word : outcome (running 5 99 [(5, 2005)]) = some (6, 2005, .none) := by decide
/-- V-LS: STORE 06 at 05 replaces the next instruction. -/
theorem test_store_next_word :
    (after (step (running 5 4300 [(5, 2106)]))).map (fun t => (t.mem, t.ic)) = some ([(5, 2106), (6, 4300)], 6) := by
  decide
/-- V-AR: 5000 + 4999 passes, 9999 + 1 stops with the result in the accumulator. -/
theorem test_add : outcome (running 5 5000 [(5, 3008), (8, 4999)]) = some (6, 9999, .none) := by decide
theorem test_add_overflow : outcome (running 5 9999 [(5, 3008), (8, 1)]) = some (5, 10000, .accOverflow) := by decide
theorem test_subtract : outcome (running 5 0 [(5, 3108), (8, -9999)]) = some (6, 9999, .none) := by decide
theorem test_subtract_overflow : outcome (running 5 (-9999) [(5, 3108), (8, 1)]) = some (5, -10000, .accOverflow) := by
  decide
theorem test_multiply : outcome (running 5 99 [(5, 3308), (8, 101)]) = some (6, 9999, .none) := by decide
theorem test_multiply_overflow :
    outcome (running 5 (-9999) [(5, 3308), (8, 9999)]) = some (5, -99980001, .accOverflow) := by decide
/-- V-AR: the quotient truncates toward zero (D7). -/
theorem test_divide : outcome (running 5 (-7) [(5, 3208), (8, 2)]) = some (6, -3, .none) := by decide
theorem test_divide_by_zero : outcome (running 5 3202 [(5, 3208)]) = some (5, 3202, .divideByZero) := by decide
/-- V-AR: the remainder has the dividend's sign (D8). -/
theorem test_module : outcome (running 5 (-7) [(5, 3408), (8, 3)]) = some (6, -1, .none) := by decide
theorem test_module_by_zero : outcome (running 5 7 [(5, 3408)]) = some (5, 7, .moduleByZero) := by decide
theorem test_branch : outcome (running 5 3 [(5, 4099)]) = some (99, 3, .none) := by decide
/-- V-CT: zero is not negative. -/
theorem test_branchneg_zero : outcome (running 5 0 [(5, 4120)]) = some (6, 0, .none) := by decide
theorem test_branchneg_taken : outcome (running 5 (-1) [(5, 4120)]) = some (20, -1, .none) := by decide
theorem test_branchzero_taken : outcome (running 5 0 [(5, 4220)]) = some (20, 0, .none) := by decide
/-- V-CT: an untaken branch at 99 leaves `IC = 100`. -/
theorem test_branchzero_untaken : outcome (running 99 7 [(99, 4220)]) = some (100, 7, .none) := by decide
/-- V-CT: HALT 99. -/
theorem test_halt_operand_ignored :
    (after (step (running 5 1 [(5, 4399)]))).map (fun t => (t.phase, t.cause, t.ic, t.ir, t.opd, t.pf)) =
      some (.haltedNormal, .none, 5, 4399, 99, false) := by decide
/-- L3.7: a negative word. -/
theorem test_negative_word :
    (after (step (running 0 0 [(0, -1007)]))).map (fun t => (t.cause, t.ir, t.opc, t.opd, t.ic)) =
      some (.unknownOpcode, -1007, -10, -7, 0) := by decide
/-- L3.6: the fetch at `IC = 100`. -/
theorem test_counter_out_of_range : outcome (running 100 0 [(0, 4099)]) = some (100, 0, .counterOutOfRange) := by decide
/-- V-LD: a bad token keeps the word before it. -/
theorem test_load_bad_token :
    (after (step (loading (.opened ["1007".toList, "abc".toList, "4300".toList] false)))).map
      (fun t => (t.cause, t.mem, t.phase)) = some (.loadBadToken, [(0, 1007)], .haltedError) := by decide
/-- L1.3 number 1. -/
theorem test_load_success :
    (after (step (loading (.opened ["12".toList, "-3".toList, "0042".toList] false)))).map
      (fun t => (t.phase, t.mem, t.output)) =
      some (.running, [(0, 12), (1, -3), (2, 42)], [.loadDone, .execBegin]) := by decide
/-- R178: the closing notice of a normal end. -/
theorem test_close :
    (after (step halted)).map (fun t => (t.output, t.readout.map Readout.ir)) = some ([.execEnd], some 4300) := by decide
/-- A placed word is the first instruction after reset. -/
theorem test_fetch_word :
    (after (step (State.reset.withFetchWord 16 2000))).map (fun t => (t.acc, t.ir, t.ic)) = some (2000, 2000, 1) := by
  decide

/-! ### Witnesses: each meets all the hypotheses of the statement it is named after -/

theorem witness_EveryStepKeepsInvariant :
    Safety.Inv (running 5 5 [(5, 3008), (8, 3)]) ∧ ∃ t, step (running 5 5 [(5, 3008), (8, 3)]) = .next t :=
  ⟨by decide, _, rfl⟩
/-- From `s`, which meets the invariant, a step stops with cause `c`. -/
abbrev stopsWith (c : Cause) (s : State) : Prop :=
  Safety.Inv s ∧ stopRecordOk s ∧ s.phase ≠ .haltedError ∧ ∃ t, step s = .next t ∧ t.phase = .haltedError ∧ t.cause = c

theorem witness_EveryStopLeavesItsRecord_notFound : stopsWith .loadNotFound (loading .notFound) :=
  ⟨by decide, by decide, by decide, _, rfl, rfl, rfl⟩
theorem witness_EveryStopLeavesItsRecord_unreadable : stopsWith .loadUnreadable (loading (.opened ["12".toList] true)) :=
  ⟨by decide, by decide, by decide, _, rfl, rfl, rfl⟩
theorem witness_EveryStopLeavesItsRecord_badToken :
    stopsWith .loadBadToken (loading (.opened ["12".toList, "abc".toList] false)) :=
  ⟨by decide, by decide, by decide, _, rfl, rfl, rfl⟩
theorem witness_EveryStopLeavesItsRecord_tooManyWords :
    stopsWith .loadTooManyWords (loading (.opened (List.replicate 101 "0".toList) false)) :=
  ⟨by decide, by decide, by decide, _, rfl, rfl, rfl⟩
theorem witness_EveryStopLeavesItsRecord_overflow : stopsWith .accOverflow (running 99 9999 [(8, 1), (99, 3008)]) :=
  ⟨by decide, by decide, by decide, _, rfl, rfl, rfl⟩
theorem witness_EveryStopLeavesItsRecord_divide : stopsWith .divideByZero (running 5 7 [(5, 3299)]) :=
  ⟨by decide, by decide, by decide, _, rfl, rfl, rfl⟩
theorem witness_EveryStopLeavesItsRecord_unknown : stopsWith .unknownOpcode (running 0 7 []) :=
  ⟨by decide, by decide, by decide, _, rfl, rfl, rfl⟩
theorem witness_EveryStopLeavesItsRecord_module : stopsWith .moduleByZero (running 5 7 [(5, 3400)]) :=
  ⟨by decide, by decide, by decide, _, rfl, rfl, rfl⟩
theorem witness_EveryStopLeavesItsRecord_counter : stopsWith .counterOutOfRange (running 100 7 []) :=
  ⟨by decide, by decide, by decide, _, rfl, rfl, rfl⟩
theorem witness_EveryStopLeavesItsRecord_halt :
    Safety.Inv (running 99 0 [(99, 4300)]) ∧ stopRecordOk (running 99 0 [(99, 4300)]) ∧
      (running 99 0 [(99, 4300)]).phase ≠ .haltedNormal ∧
      ∃ t, step (running 99 0 [(99, 4300)]) = .next t ∧ t.phase = .haltedNormal :=
  ⟨by decide, by decide, by decide, _, rfl, rfl⟩
theorem witness_InvariantStatesAlwaysStep : Safety.Inv (waiting ["5".toList]) := by decide
theorem witness_HostActionsKeepInvariant : Safety.Inv State.reset := by decide
theorem witness_PhaseChangesOnlyAsTabled :
    ∃ t, step (running 5 0 [(5, 4300)]) = .next t ∧ t.phase = .haltedNormal := ⟨_, rfl, rfl⟩
theorem witness_EndedRunKeepsCoreForever :
    runEnded halted ∧ runEnded (raise .accOverflow halted) ∧ runEnded (closeRun halted) := by decide
theorem witness_CauseWrittenOnlyAtErrorStop_running :
    ∃ t, step (running 100 0 []) = .next t ∧ t.cause ≠ (running 100 0 []).cause ∧
      (running 100 0 []).phase ≠ .haltedError ∧ t.phase = .haltedError := ⟨_, rfl, by decide, by decide, rfl⟩
theorem witness_CauseWrittenOnlyAtErrorStop_loading :
    ∃ t, step (loading .notFound) = .next t ∧ t.cause ≠ (loading .notFound).cause ∧
      (loading .notFound).phase ≠ .haltedError ∧ t.phase = .haltedError := ⟨_, rfl, by decide, by decide, rfl⟩
theorem witness_NormalEndOnlyByHalt :
    ∃ t, step (running 99 0 [(99, 4300)]) = .next t ∧ (running 99 0 [(99, 4300)]).phase ≠ .haltedNormal ∧
      t.phase = .haltedNormal := ⟨_, rfl, by decide, rfl⟩
theorem witness_MemoryWrittenOnlyByReadAndStore_read :
    memoryOk (waiting ["5".toList]) ∧ (waiting ["5".toList]).phase ≠ .loading ∧
      ∃ t, step (waiting ["5".toList]) = .next t ∧ memGet t.mem 7 ≠ memGet (waiting ["5".toList]).mem 7 :=
  ⟨by decide, by decide, _, rfl, by decide⟩
theorem witness_MemoryWrittenOnlyByReadAndStore_store :
    memoryOk (running 5 8 [(5, 2199)]) ∧ (running 5 8 [(5, 2199)]).phase ≠ .loading ∧
      ∃ t, step (running 5 8 [(5, 2199)]) = .next t ∧ memGet t.mem 99 ≠ memGet (running 5 8 [(5, 2199)]).mem 99 :=
  ⟨by decide, by decide, _, rfl, by decide⟩
theorem witness_AccumulatorWrittenOnlyByItsInstructions :
    ∃ t, step (running 5 0 [(5, 2005)]) = .next t ∧ t.acc ≠ (running 5 0 [(5, 2005)]).acc := ⟨_, rfl, by decide⟩
theorem witness_CounterMovesOnlyAsTabled_read :
    ∃ t, step (waiting ["5".toList]) = .next t ∧ t.ic ≠ (waiting ["5".toList]).ic := ⟨_, rfl, by decide⟩
theorem witness_CounterMovesOnlyAsTabled_advance :
    ∃ t, step (running 99 7 [(99, 4220)]) = .next t ∧ t.ic ≠ (running 99 7 [(99, 4220)]).ic := ⟨_, rfl, by decide⟩
theorem witness_CounterMovesOnlyAsTabled_branch :
    ∃ t, step (running 0 (-1) [(0, 4199)]) = .next t ∧ t.ic ≠ (running 0 (-1) [(0, 4199)]).ic := ⟨_, rfl, by decide⟩
theorem witness_FetchAloneWritesInstructionRegister_fetch :
    readyToFetch (running 99 0 [(99, 4300)]) ∧ ∃ t, step (running 99 0 [(99, 4300)]) = .next t := ⟨by decide, _, rfl⟩
theorem witness_FetchAloneWritesInstructionRegister_noFetch :
    ¬ readyToFetch (waiting ["x".toList]) ∧ ∃ t, step (waiting ["x".toList]) = .next t := ⟨by decide, _, rfl⟩
theorem witness_OutputStreamIsAppendOnly :
    ∃ t, step (running 5 0 [(5, 1105)]) = .next t ∧ t.output = [.value 1105] := ⟨_, rfl, rfl⟩
theorem witness_LinesConsumedOnlyByWaitingRead :
    ∃ t, step (waiting ["x".toList]) = .next t ∧ t.input ≠ (waiting ["x".toList]).input := ⟨_, rfl, by decide⟩
theorem witness_DecodeReadsBackEveryEncoding :
    (Instr.read 0).wellFormed = true ∧ (Instr.halt 99).wellFormed = true := by decide
theorem witness_DecodedWordIsTheEncoding : decode 1000 = .instr (.read 0) ∧ decode 4399 = .instr (.halt 99) := by decide
theorem witness_NegativeWordsAreUnknownOpcodes : inWord (-9999) ∧ (-9999 : Int) < 0 ∧ inWord (-1) ∧ (-1 : Int) < 0 := by
  decide
theorem witness_StepRunsTheDecodedInstruction :
    readyToFetch (running 99 0 [(99, 1000)]) ∧
      decode (memGet (running 99 0 [(99, 1000)]).mem (running 99 0 [(99, 1000)]).ic) = .instr (.read 0) := by decide
theorem witness_StepCompletesWaitingRead :
    (waiting ["5".toList]).phase = .running ∧ (waiting ["5".toList]).rdwait = true ∧
      (waiting ["5".toList]).opd = ((7 : Nat) : Int) := by decide
theorem witness_FetchAndDecodeWriteTheirRegisters_stop :
    (running 100 0 []).phase = .running ∧ (running 100 0 []).rdwait = false ∧ (running 100 0 []).pf = true ∧
      (running 100 0 []).ic = 100 := by decide
theorem witness_FetchAndDecodeWriteTheirRegisters_fetch :
    (running 99 0 []).phase = .running ∧ (running 99 0 []).rdwait = false ∧ (running 99 0 []).pf = true ∧
      (running 99 0 []).ic < 100 := by decide
theorem witness_DispatchRunsOrStopsUnknown_unknown :
    readyToFetch (running 99 0 [(99, 4400)]) ∧
      opcOf 4400 ∉ ([10, 11, 20, 21, 30, 31, 32, 33, 34, 40, 41, 42, 43] : List Int) := by decide
theorem witness_DispatchRunsOrStopsUnknown_known :
    readyToFetch (running 0 0 [(0, 4399)]) ∧
      opcOf 4399 ∈ ([10, 11, 20, 21, 30, 31, 32, 33, 34, 40, 41, 42, 43] : List Int) := by decide
theorem witness_NextFetchSeesTheStore :
    memoryOk (running 98 4300 [(98, 2199)]) ∧ inWord (running 98 4300 [(98, 2199)]).acc ∧
      runsInstr (running 98 4300 [(98, 2199)]) (.store 99) ∧ 99 = (running 98 4300 [(98, 2199)]).ic + 1 ∧
      decode (running 98 4300 [(98, 2199)]).acc = .instr (.halt 0) := by decide
theorem witness_BranchToItselfRunsForever :
    readyToFetch (running 99 0 [(99, 4099)]) ∧ memGet (running 99 0 [(99, 4099)]).mem 99 = 4000 + ((99 : Nat) : Int) := by
  decide
theorem witness_ReadIssuePromptsAndWaits : (running 5 0 [(5, 1007)]).rdwait = false := by decide
theorem witness_ReadStoresAcceptedLine :
    memoryOk (waiting ["-9999".toList]) ∧ 7 < Config.memSize ∧ (waiting ["-9999".toList]).rdwait = true ∧
      (waiting ["-9999".toList]).input = "-9999".toList :: [] ∧ accept "-9999".toList = some (-9999) := by decide
theorem witness_ReadRejectsLine :
    (waiting ["10000".toList]).rdwait = true ∧ (waiting ["10000".toList]).input = "10000".toList :: [] ∧
      accept "10000".toList = none := by decide
theorem witness_BlockedReadStaysBlocked : blocked (waiting []) := by decide
theorem witness_RejectedLinesOnlyRepeatThePrompt :
    Safety.Inv (waiting ["x".toList, [], "5".toList]) ∧ (waiting ["x".toList, [], "5".toList]).rdwait = true ∧
      (waiting ["x".toList, [], "5".toList]).input = ["x".toList, []] ++ ["5".toList] ∧
      ∀ line ∈ ["x".toList, []], accept line = none := by decide
theorem witness_AcceptIsTheTokenGrammar :
    accept "+9999".toList = some 9999 ∧ accept "-10000".toList = none ∧ 99 < Config.memSize := by decide
theorem witness_WriteEmitsTheWord :
    99 < Config.memSize ∧ (running 99 0 [(99, 1199)]).phase = .running ∧ (running 99 0 [(99, 1199)]).pf = true ∧
      (running 99 0 [(99, 1199)]).rdwait = false ∧ (running 99 0 [(99, 1199)]).ic = 99 := by decide
theorem witness_WriteRendersSignAndFourDigits : inWord 9999 ∧ inWord (-9999) := by decide
theorem witness_PrintedWordIsAcceptedBack : inWord 0 ∧ inWord (-1) := by decide
theorem witness_LoadCopiesTheWord :
    99 < Config.memSize ∧ (running 99 0 [(99, 2099)]).phase = .running ∧ (running 99 0 [(99, 2099)]).pf = true ∧
      (running 99 0 [(99, 2099)]).rdwait = false ∧ (running 99 0 [(99, 2099)]).ic = 99 := by decide
theorem witness_StoreCopiesTheAccumulator :
    memoryOk (running 99 9999 [(99, 2199)]) ∧ inWord (running 99 9999 [(99, 2199)]).acc ∧ 99 < Config.memSize ∧
      (running 99 9999 [(99, 2199)]).phase = .running ∧ (running 99 9999 [(99, 2199)]).pf = true ∧
      (running 99 9999 [(99, 2199)]).rdwait = false ∧ (running 99 9999 [(99, 2199)]).ic = 99 := by decide
theorem witness_UnmetAccessRequirementFaults :
    Config.memSize ≤ 100 ∧ 99 < Config.memSize ∧ ¬ inWord (running 0 10000 []).acc := by decide
theorem witness_AddIsExactAndChecked :
    8 < Config.memSize ∧ inWord (5000 + memGet [(8, 4999)] 8) ∧ ¬ inWord (9999 + memGet [(8, 1)] 8) := by decide
theorem witness_SubtractIsExactAndChecked :
    8 < Config.memSize ∧ inWord (0 - memGet [(8, -9999)] 8) ∧ ¬ inWord (-9999 - memGet [(8, 1)] 8) := by decide
theorem witness_MultiplyIsExactAndChecked :
    8 < Config.memSize ∧ inWord (99 * memGet [(8, 101)] 8) ∧ ¬ inWord (100 * memGet [(8, 100)] 8) := by decide
theorem witness_DivideTruncatesOrStops :
    8 < Config.memSize ∧ memGet [(8, -1)] 8 ≠ 0 ∧ memGet ([(8, -1)] : Memory) 9 = 0 := by decide
theorem witness_ModuleTakesTheTruncatedRemainder :
    memoryOk (running 5 7 [(5, 3408), (8, 2)]) ∧ 8 < Config.memSize ∧ memGet (running 5 7 [(5, 3408), (8, 2)]).mem 8 ≠ 0 ∧
      memGet (running 5 7 [(5, 3408), (8, 2)]).mem 9 = 0 := by decide
theorem witness_QuotientAndRemainderFitTogether :
    memGet (running 5 (-7) [(8, 2)]).mem 8 ≠ 0 ∧ (∃ q, exec (.divide 8) (running 5 (-7) [(8, 2)]) = .next q) ∧
      ∃ r, exec (.modulo 8) (running 5 (-7) [(8, 2)]) = .next r := ⟨by decide, ⟨_, rfl⟩, _, rfl⟩
theorem witness_DivideNeverLeavesTheWordRange :
    inWord (running 5 (-9999) [(8, -1)]).acc ∧ memGet (running 5 (-9999) [(8, -1)]).mem 8 ≠ 0 ∧
      ∃ t, exec (.divide 8) (running 5 (-9999) [(8, -1)]) = .next t := ⟨by decide, by decide, _, rfl⟩
theorem witness_ArithmeticFrame_advance :
    ∃ t, exec (.add 8) (running 5 1 [(8, 2)]) = .next t ∧ t.ic = 6 := ⟨_, rfl, rfl⟩
theorem witness_ArithmeticFrame_stop :
    ∃ t, exec (.modulo 9) (running 5 1 [(8, 2)]) = .next t ∧ t.cause = .moduleByZero := ⟨_, rfl, rfl⟩
theorem witness_BranchSetsTheCounter : 0 < Config.memSize ∧ 99 < Config.memSize := by decide
theorem witness_BranchNegTestsTheSign :
    99 < Config.memSize ∧ (running 99 (-1) []).acc < 0 ∧ 0 ≤ (running 99 0 []).acc ∧ (running 99 0 []).phase = .running ∧
      (running 99 0 []).pf = true ∧ (running 99 0 []).rdwait = false ∧ (running 99 0 []).ic = 99 := by decide
theorem witness_BranchZeroTestsForZero :
    99 < Config.memSize ∧ (running 99 0 []).acc = 0 ∧ (running 99 (-1) []).acc ≠ 0 ∧ (running 99 (-1) []).phase = .running ∧
      (running 99 (-1) []).pf = true ∧ (running 99 (-1) []).rdwait = false ∧ (running 99 (-1) []).ic = 99 := by decide
theorem witness_HaltStopsNormally : 0 < Config.memSize ∧ 99 < Config.memSize := by decide
theorem witness_RunStartsWhenRequested :
    (requestRun .notFound State.reset).phase = .idle ∧ (requestRun .notFound State.reset).source = some .notFound ∧
      State.reset.phase = .idle ∧ State.reset.source = none := by decide
theorem witness_LoadSuccessStartsRunning : (loading .notFound).ic = 0 := by decide
theorem witness_LoadFillsMemoryInOrder :
    (loading (.opened ["12".toList, "-3".toList] false)).phase = .loading ∧
      (loading (.opened ["12".toList, "-3".toList] false)).source = some (.opened ["12".toList, "-3".toList] false) ∧
      (loading (.opened ["12".toList, "-3".toList] false)).mem = [] ∧ spells ["12".toList, "-3".toList] [12, -3] ∧
      ["12".toList, "-3".toList].length ≤ Config.memSize := by decide
/-- The other ends of the range: no line at all, and 100 lines. -/
theorem witness_LoadFillsMemoryInOrder_ends :
    spells [] [] ∧ (loading (.opened [] false)).source = some (.opened [] false) ∧
      (loading (.opened (List.replicate 100 "4300".toList) false)).mem = [] ∧
      spells (List.replicate 100 "4300".toList) (List.replicate 100 4300) ∧
      (List.replicate 100 "4300".toList).length ≤ Config.memSize :=
  ⟨rfl, rfl, rfl, by rw [spells, List.map_replicate, List.map_replicate]; rfl, by decide⟩
/-- The bad line at index `n`, after `n` accepted ones. -/
def badAfter (n : Nat) : State :=
  loading (.opened (List.replicate n "4300".toList ++ "abc".toList :: ["4300".toList]) false)
theorem witness_BadTokenKeepsEarlierWords_first :
    (badAfter 0).phase = .loading ∧
      (badAfter 0).source = some (.opened ([] ++ "abc".toList :: ["4300".toList]) false) ∧ (badAfter 0).mem = [] ∧
      spells [] [] ∧ ([] : List Line).length < Config.memSize ∧ accept "abc".toList = none :=
  ⟨rfl, rfl, rfl, rfl, by decide, by decide⟩
theorem witness_BadTokenKeepsEarlierWords_last :
    (badAfter 99).phase = .loading ∧
      (badAfter 99).source =
        some (.opened (List.replicate 99 "4300".toList ++ "abc".toList :: ["4300".toList]) false) ∧
      (badAfter 99).mem = [] ∧ spells (List.replicate 99 "4300".toList) (List.replicate 99 4300) ∧
      (List.replicate 99 "4300".toList).length < Config.memSize ∧ accept "abc".toList = none :=
  ⟨rfl, rfl, rfl, by rw [spells, List.map_replicate, List.map_replicate]; rfl, by decide, by decide⟩
theorem witness_TooManyLinesKeepTheFirstHundred :
    ∃ s : State, s.phase = .loading ∧
      s.source = some (.opened (List.replicate 100 "4300".toList ++ "4300".toList :: []) false) ∧ s.mem = [] ∧
      spells (List.replicate 100 "4300".toList) (List.replicate 100 4300) ∧
      (List.replicate 100 "4300".toList).length = Config.memSize :=
  ⟨loading (.opened (List.replicate 100 "4300".toList ++ "4300".toList :: []) false), rfl, rfl, rfl,
    by rw [spells, List.map_replicate, List.map_replicate]; rfl, List.length_replicate⟩
theorem witness_UnreadableSourceStopsTheLoad_notFound :
    (loading .notFound).phase = .loading ∧ (loading .notFound).source = some .notFound := by decide
theorem witness_UnreadableSourceStopsTheLoad_readError :
    (loading (.opened ["12".toList] true)).phase = .loading ∧
      (loading (.opened ["12".toList] true)).source = some (.opened ["12".toList] true) ∧
      (loading (.opened ["12".toList] true)).mem = [] ∧
      spells ["12".toList] [12] ∧ ["12".toList].length ≤ Config.memSize := by decide
theorem witness_UnreadableSourceStopsTheLoad_hundred :
    (loading (.opened (List.replicate 100 "12".toList) true)).phase = .loading ∧
      (loading (.opened (List.replicate 100 "12".toList) true)).source =
        some (.opened (List.replicate 100 "12".toList) true) ∧
      (loading (.opened (List.replicate 100 "12".toList) true)).mem = [] ∧
      spells (List.replicate 100 "12".toList) (List.replicate 100 12) ∧
      (List.replicate 100 "12".toList).length ≤ Config.memSize :=
  ⟨rfl, rfl, rfl, by rw [spells, List.map_replicate, List.map_replicate]; rfl, by decide⟩
theorem witness_StoppedRunIsClosedOnce :
    halted.readout = none ∧ halted.phase = .haltedNormal ∧ (raise .accOverflow halted).phase = .haltedError ∧
      (raise .accOverflow halted).readout = none ∧ (closeRun halted).readout = some (takeReadout halted) ∧
      runEnded (closeRun halted) ∧ 99 < Config.memSize := by decide

end Sys2Proof.Tests
end

/-! PROOFS. What one step can do, said once as two relations (`ExecEffect` for an instruction, `StepEffect` for a whole
step), and the statements about reset, invariants and whole runs derived from them by cases. -/

namespace Sys2Proof.Proofs

open Sys2Proof.Machine Sys2Proof.Safety

/-! ### The fields of a decoded word -/

/-- The operand field of any integer has at most two digits (R82). -/
theorem toNat_opdOf_lt (w : Int) : (opdOf w).toNat < Config.memSize := by
  rw [memSize_eq]
  rcases Int.lt_or_le w 0 with hw | hw
  · rw [opdOf_of_neg hw]; omega
  · rw [opdOf_of_nonneg hw]; omega

/-- A word with a positive operation code is not negative, so neither is its operand (R88). -/
theorem opdOf_nonneg_of_opcOf_pos {w : Int} (h : 0 < opcOf w) : 0 ≤ opdOf w := by
  rcases Int.lt_or_le w 0 with hw | hw
  · rw [opcOf_of_neg hw] at h; omega
  · rw [opdOf_of_nonneg hw]; omega

/-- A decoded instruction names an address that exists (R88). -/
theorem operand_lt_of_decode {w : Int} {i : Instr} (h : decode w = .instr i) : i.operand < Config.memSize := by
  rw [(dispatch_instr h).2]
  exact toNat_opdOf_lt w

/-- The address a waiting READ completes at exists (R42, R110). -/
theorem validAddr_opd_of_waiting {s : State} (hf : fieldsOk s) (ho : s.opc = 10) : validAddr s.opd := by
  obtain ⟨-, hopc, hopd⟩ := hf
  have hpos : 0 < opcOf s.ir := by omega
  have hlt := toNat_opdOf_lt s.ir
  have hnn := opdOf_nonneg_of_opcOf_pos hpos
  rw [memSize_eq] at hlt
  rw [hopd]
  constructor
  · exact hnn
  · rw [memSize_eq]; omega

/-! ### What an instruction can do -/

/-- The exact result that the range check of R130 sees, for an instruction that has one. -/
inductive CheckedResult (d : State) : Instr → Int → Prop
  | add (a : Nat) : CheckedResult d (.add a) (d.acc + memGet d.mem a)
  | subtract (a : Nat) : CheckedResult d (.subtract a) (d.acc - memGet d.mem a)
  | multiply (a : Nat) : CheckedResult d (.multiply a) (d.acc * memGet d.mem a)
  | modulo (a : Nat) (hb : memGet d.mem a ≠ 0) : CheckedResult d (.modulo a) (modT d.acc (memGet d.mem a))

/-- A division by zero and the cause of its stop (R133, R135). -/
inductive ZeroDivisor (d : State) : Instr → Cause → Prop
  | divide (a : Nat) (hb : memGet d.mem a = 0) : ZeroDivisor d (.divide a) .divideByZero
  | modulo (a : Nat) (hb : memGet d.mem a = 0) : ZeroDivisor d (.modulo a) .moduleByZero

/-- A branch that is taken, and its target (R150 to R152). -/
inductive BranchTaken (d : State) : Instr → Nat → Prop
  | branch (a : Nat) : BranchTaken d (.branch a) a
  | branchNeg (a : Nat) (h : d.acc < 0) : BranchTaken d (.branchNeg a) a
  | branchZero (a : Nat) (h : d.acc = 0) : BranchTaken d (.branchZero a) a

/-- A branch that is not taken (R151, R152). -/
inductive BranchPassed (d : State) : Instr → Prop
  | branchNeg (a : Nat) (h : 0 ≤ d.acc) : BranchPassed d (.branchNeg a)
  | branchZero (a : Nat) (h : d.acc ≠ 0) : BranchPassed d (.branchZero a)

/-- Everything the meaning of an instruction can leave of the state `d` it begins in, where no READ waits. -/
inductive ExecEffect (d : State) : Instr → State → Prop
  | readIssued (a : Nat) : ExecEffect d (.read a) (issueRead d)
  | wrote (a : Nat) : ExecEffect d (.write a) (advance (emit (.value (memGet d.mem a)) d))
  | loaded (a : Nat) : ExecEffect d (.load a) (advance (setAcc (memGet d.mem a) d))
  | stored (a : Nat) (ha : a < Config.memSize) (hv : inWord d.acc) :
      ExecEffect d (.store a) (advance (putWord a d.acc d))
  | inRange {i : Instr} {v : Int} (hc : CheckedResult d i v) (hv : inWord v) : ExecEffect d i (advance (setAcc v d))
  | overflowed {i : Instr} {v : Int} (hc : CheckedResult d i v) (hv : ¬ inWord v) :
      ExecEffect d i (raise .accOverflow (setAcc v d))
  | divided (a : Nat) (hb : memGet d.mem a ≠ 0) :
      ExecEffect d (.divide a) (advance (setAcc (divT d.acc (memGet d.mem a)) d))
  | zeroDivisor {i : Instr} {c : Cause} (hz : ZeroDivisor d i c) : ExecEffect d i (raise c d)
  | jumped {i : Instr} {a : Nat} (hb : BranchTaken d i a) : ExecEffect d i (setIc a d)
  | passed {i : Instr} (hb : BranchPassed d i) : ExecEffect d i (advance d)
  | halted (n : Nat) : ExecEffect d (.halt n) (haltNormal d)

/-- A range-checked result advances the counter or stops (R130). -/
theorem CheckedResult.execEffect {d t : State} {i : Instr} {v : Int} (hc : CheckedResult d i v)
    (ht : t = setAccChecked v d) : ExecEffect d i t := by
  subst ht
  obtain ⟨hv, h⟩ | ⟨hv, h⟩ := setAccChecked_cases v d
  · rw [h]; exact .inRange hc hv
  · rw [h]; exact .overflowed hc hv

/-- The effects of `ExecEffect` are all there are. -/
theorem execEffect_of_exec {d t : State} {i : Instr} (hw : d.rdwait = false) (h : exec i d = .next t) :
    ExecEffect d i t := by
  cases i with
  | read a =>
    obtain ⟨-, rfl⟩ | ⟨hwait, -⟩ := execRead_cases h
    · exact .readIssued a
    · rw [hw] at hwait; cases hwait
  | write a => obtain ⟨-, rfl⟩ := execWrite_next h; exact .wrote a
  | load a => obtain ⟨-, rfl⟩ := execLoad_next h; exact .loaded a
  | store a => obtain ⟨ha, hv, rfl⟩ := execStore_next h; exact .stored a ha hv
  | add a => exact (CheckedResult.add a).execEffect (execAdd_next h).2
  | subtract a => exact (CheckedResult.subtract a).execEffect (execSubtract_next h).2
  | multiply a => exact (CheckedResult.multiply a).execEffect (execMultiply_next h).2
  | divide a =>
    obtain ⟨-, ⟨hb, rfl⟩ | ⟨hb, rfl⟩⟩ := execDivide_next h
    · exact .zeroDivisor (.divide a hb)
    · exact .divided a hb
  | modulo a =>
    obtain ⟨-, ⟨hb, rfl⟩ | ⟨hb, ht⟩⟩ := execModulo_next h
    · exact .zeroDivisor (.modulo a hb)
    · exact (CheckedResult.modulo a hb).execEffect ht
  | branch a => obtain rfl := execBranch_next h; exact .jumped (.branch a)
  | branchNeg a =>
    obtain ⟨hn, rfl⟩ | ⟨hn, rfl⟩ := execBranchNeg_next h
    · exact .jumped (.branchNeg a hn)
    · exact .passed (.branchNeg a hn)
  | branchZero a =>
    obtain ⟨hz, rfl⟩ | ⟨hz, rfl⟩ := execBranchZero_next h
    · exact .jumped (.branchZero a hz)
    · exact .passed (.branchZero a hz)
  | halt n => obtain rfl := execHalt_next (n := n) h; exact .halted n

/-- A meaning that only reads its operand answers a next state where the operand is an address (R65). -/
theorem exists_readOperand_next {a : Nat} (d : State) (k : Int → State) (ha : a < Config.memSize) :
    ∃ t, readOperand a d (fun b => .next (k b)) = .next t :=
  ⟨k (memGet d.mem a), readOperand_of_lt d _ ha⟩

/-- In a decoded state with a valid operand and a Word in the accumulator, every meaning answers a next state (R65). -/
theorem exists_exec_next {d : State} {i : Instr} (hw : d.rdwait = false) (ha : i.operand < Config.memSize)
    (hv : inWord d.acc) : ∃ t, exec i d = .next t := by
  cases i with
  | read a => exact ⟨issueRead d, if_neg (by simp [hw])⟩
  | write a => simp only [exec, execWrite]; exact exists_readOperand_next d _ ha
  | load a => simp only [exec, execLoad]; exact exists_readOperand_next d _ ha
  | store a => exact ⟨_, writeOperandAndAdvance_of_valid d ((validAddr_natCast a).2 ha) hv⟩
  | add a => simp only [exec, execAdd]; exact exists_readOperand_next d _ ha
  | subtract a => simp only [exec, execSubtract]; exact exists_readOperand_next d _ ha
  | divide a => simp only [exec, execDivide]; exact exists_readOperand_next d _ ha
  | multiply a => simp only [exec, execMultiply]; exact exists_readOperand_next d _ ha
  | modulo a => simp only [exec, execModulo]; exact exists_readOperand_next d _ ha
  | branch a => exact ⟨_, rfl⟩
  | branchNeg a => exact ⟨_, rfl⟩
  | branchZero a => exact ⟨_, rfl⟩
  | halt n => exact ⟨_, rfl⟩

/-- No meaning writes the instruction register or the decoded fields (R37, R38). -/
theorem ExecEffect.keeps_fields {d t : State} {i : Instr} (h : ExecEffect d i t) :
    t.ir = d.ir ∧ t.opc = d.opc ∧ t.opd = d.opd := by
  cases h <;> exact ⟨rfl, rfl, rfl⟩

/-- A meaning keeps `PHASE` and `CAUSE`, halts, or stops with an interpret cause (R153, R161). -/
theorem ExecEffect.control {d t : State} {i : Instr} (h : ExecEffect d i t) :
    (t.cause = d.cause ∧ (t.phase = d.phase ∨ t.phase = .haltedNormal)) ∨
      (t.phase = .haltedError ∧ isInterpretCause t.cause = true) := by
  cases h with
  | overflowed => exact .inr ⟨rfl, rfl⟩
  | zeroDivisor hz => cases hz <;> exact .inr ⟨rfl, rfl⟩
  | halted => exact .inl ⟨rfl, .inr rfl⟩
  | _ => exact .inl ⟨rfl, .inl rfl⟩

/-! ### What a step can do -/

/-- The loader's loop keeps the canonical form of memory (R62, R202). -/
theorem loadLines_mem_wf (lines : List Line) (readError : Bool) {i : Nat} {s : State} (hi : i ≤ Config.memSize)
    (hm : s.mem.wf = true) : (loadLines lines readError i s).mem.wf = true := by
  induction lines generalizing i s with
  | nil => cases readError <;> exact hm
  | cons line rest ih =>
    unfold loadLines
    split
    · exact hm
    · rename_i hne
      have hlt : i < Config.memSize := lt_of_le_of_ne hi hne
      split
      · exact hm
      · rename_i v hv
        exact ih hlt (memSet_wf hm hlt (accept_inWord hv))

/-- Everything a step can leave of a state, with what it was taken on. -/
inductive StepEffect (s : State) : State → Prop
  | stays (hf : ¬ readyToFetch s) : StepEffect s s
  | starts (hp : s.phase = .idle) (hs : s.source ≠ none) : StepEffect s { s with phase := .loading }
  | notFound (hp : s.phase = .loading) : StepEffect s (raise .loadNotFound s)
  | loadStops {m : Memory} {c : Cause} (hp : s.phase = .loading) (hm : s.mem.wf = true → m.wf = true)
      (hc : isLoadCause c = true) (hn : c ≠ .loadNotFound) : StepEffect s (raise c { s with mem := m })
  | loads {m : Memory} (hp : s.phase = .loading) (hm : s.mem.wf = true → m.wf = true) :
      StepEffect s (loadSuccess { s with mem := m })
  | readTakes {line : Line} {rest : List Line} {v : Int} (hp : s.phase = .running) (hw : s.rdwait = true)
      (hin : s.input = line :: rest) (hv : accept line = some v) (ha : validAddr s.opd) :
      StepEffect s (advance (putWord s.opd.toNat v (setRdwait false (setInput rest s))))
  | readRejects {line : Line} {rest : List Line} (hp : s.phase = .running) (hw : s.rdwait = true)
      (hin : s.input = line :: rest) (hv : accept line = none) :
      StepEffect s (emit .reject (setRdwait false (setInput rest s)))
  | counterStops (hp : s.phase = .running) (hw : s.rdwait = false) (hic : ¬ s.ic < Config.memSize) :
      StepEffect s (raise .counterOutOfRange s)
  | unknownStops {opc opd : Int} (hf : readyToFetch s) (hd : decode (memGet s.mem s.ic) = .unknownOpcode opc opd) :
      StepEffect s (raise .unknownOpcode (fetchDecode s))
  | runs {i : Instr} {t : State} (hr : runsInstr s i) (he : ExecEffect (fetchDecode s) i t) : StepEffect s t
  | closes (he : runEnded s) :
      StepEffect s { s with output := s.output ++ closingNotices s, readout := some (takeReadout s) }

theorem not_readyToFetch_of_phase {s : State} (h : s.phase ≠ .running) : ¬ readyToFetch s :=
  fun hf => h hf.1

theorem not_readyToFetch_of_waiting {s : State} (h : s.rdwait = true) : ¬ readyToFetch s := by
  rintro ⟨-, hw, -⟩
  rw [h] at hw
  cases hw

/-- The host's turn in IDLE (R201). -/
theorem stepEffect_startRun {s : State} (hp : s.phase = .idle) : StepEffect s (startRun s) := by
  cases hs : s.source with
  | none => rw [startRun_none hs]; exact .stays (not_readyToFetch_of_phase (by simp [hp]))
  | some src => rw [startRun_some hs]; exact .starts hp (by simp [hs])

/-- The loader's turn (R202). -/
theorem stepEffect_runLoader {s : State} (hp : s.phase = .loading) : StepEffect s (runLoader s) := by
  unfold runLoader
  split
  · exact .stays (not_readyToFetch_of_phase (by simp [hp]))
  · exact .notFound hp
  · rename_i lines readError _
    have hwf := loadLines_mem_wf lines readError (Nat.zero_le Config.memSize) (s := s)
    obtain ⟨m, h | ⟨c, hc, hn, h⟩⟩ := loadLines_cases lines readError 0 s
    · rw [h] at hwf ⊢; exact .loads hp hwf
    · rw [h] at hwf ⊢; exact .loadStops hp hwf hc hn

/-- The core's turn (R94). -/
theorem stepEffect_of_coreStep {s t : State} (hp : s.phase = .running) (h : coreStep s = .next t) :
    StepEffect s t := by
  obtain ⟨hw, hread⟩ | ⟨-, hpf, rfl⟩ | ⟨hw, -, hic, rfl⟩ | ⟨hw, hpf, hic, hdec⟩ := coreStep_cases h
  · obtain ⟨-, rfl⟩ | ⟨line, rest, v, hin, hv, ha, -, rfl⟩ | ⟨line, rest, hin, hv, rfl⟩ := completeRead_cases hread
    · exact .stays (not_readyToFetch_of_waiting hw)
    · exact .readTakes hp hw hin hv ha
    · exact .readRejects hp hw hin hv
  · exact .stays fun ⟨_, _, hpf', _⟩ => by rw [hpf] at hpf'; cases hpf'
  · exact .counterStops hp hw hic
  · have hf : readyToFetch s := ⟨hp, hw, hpf, hic⟩
    obtain ⟨opc, opd, hd, rfl⟩ | ⟨i, hd, hex⟩ := hdec
    · exact .unknownStops hf hd
    · exact .runs ⟨hf, hd⟩ (execEffect_of_exec hw hex)

/-- The run driver's turn (R178, R179). -/
theorem stepEffect_closeRun {s : State} (he : runEnded s) : StepEffect s (closeRun s) := by
  obtain ⟨-, h⟩ | ⟨-, h⟩ := closeRun_cases s
  · rw [h]
    refine .stays (not_readyToFetch_of_phase ?_)
    rcases he with hp | hp <;> simp [hp]
  · rw [h]; exact .closes he

/-- The effects of `StepEffect` are all there are. -/
theorem stepEffect_of_step {s t : State} (h : step s = .next t) : StepEffect s t := by
  obtain ⟨hp, rfl⟩ | ⟨hp, rfl⟩ | ⟨hp, hcore⟩ | ⟨he, rfl⟩ := step_cases h
  · exact stepEffect_startRun hp
  · exact stepEffect_runLoader hp
  · exact stepEffect_of_coreStep hp hcore
  · exact stepEffect_closeRun he

/-- How a step moves `PHASE` and `CAUSE` together (R40, R41, R167). -/
theorem StepEffect.control {s t : State} (h : StepEffect s t) :
    (t.cause = s.cause ∧ (t.phase = s.phase ∨ (s.phase = .idle ∧ t.phase = .loading) ∨
        (s.phase = .loading ∧ t.phase = .running) ∨ (s.phase = .running ∧ t.phase = .haltedNormal))) ∨
      (t.phase = .haltedError ∧
        ((s.phase = .loading ∧ isLoadCause t.cause = true) ∨
          (s.phase = .running ∧ isInterpretCause t.cause = true))) := by
  cases h with
  | starts hp => exact .inl ⟨rfl, .inr (.inl ⟨hp, rfl⟩)⟩
  | notFound hp => exact .inr ⟨rfl, .inl ⟨hp, rfl⟩⟩
  | loadStops hp _ hc => exact .inr ⟨rfl, .inl ⟨hp, hc⟩⟩
  | loads hp => exact .inl ⟨rfl, .inr (.inr (.inl ⟨hp, rfl⟩))⟩
  | counterStops hp => exact .inr ⟨rfl, .inr ⟨hp, rfl⟩⟩
  | unknownStops hf => exact .inr ⟨rfl, .inr ⟨hf.1, rfl⟩⟩
  | runs hr he =>
    obtain ⟨⟨hp, -⟩, -⟩ := hr
    obtain ⟨hc, hph | hph⟩ | ⟨hph, hc⟩ := he.control
    · exact .inl ⟨hc, .inl hph⟩
    · exact .inl ⟨hc, .inr (.inr (.inr ⟨hp, hph⟩))⟩
    · exact .inr ⟨hph, .inr ⟨hp, hc⟩⟩
  | _ => exact .inl ⟨rfl, .inl rfl⟩

/-- A step fetches and decodes where the core is ready to, and nowhere else (R37, R38). -/
theorem StepEffect.instructionRegister {s t : State} (h : StepEffect s t) :
    (readyToFetch s ∧ t.ir = memGet s.mem s.ic ∧ t.opc = opcOf (memGet s.mem s.ic) ∧
        t.opd = opdOf (memGet s.mem s.ic)) ∨
      (¬ readyToFetch s ∧ t.ir = s.ir ∧ t.opc = s.opc ∧ t.opd = s.opd) := by
  cases h with
  | stays hf => exact .inr ⟨hf, rfl, rfl, rfl⟩
  | starts hp => exact .inr ⟨not_readyToFetch_of_phase (by simp [hp]), rfl, rfl, rfl⟩
  | notFound hp => exact .inr ⟨not_readyToFetch_of_phase (by simp [hp]), rfl, rfl, rfl⟩
  | loadStops hp => exact .inr ⟨not_readyToFetch_of_phase (by simp [hp]), rfl, rfl, rfl⟩
  | loads hp => exact .inr ⟨not_readyToFetch_of_phase (by simp [hp]), rfl, rfl, rfl⟩
  | readTakes _ hw => exact .inr ⟨not_readyToFetch_of_waiting hw, rfl, rfl, rfl⟩
  | readRejects _ hw => exact .inr ⟨not_readyToFetch_of_waiting hw, rfl, rfl, rfl⟩
  | counterStops _ _ hic => exact .inr ⟨fun ⟨_, _, _, hlt⟩ => hic hlt, rfl, rfl, rfl⟩
  | unknownStops hf => exact .inl ⟨hf, rfl, rfl, rfl⟩
  | runs hr he => exact .inl ⟨hr.1, he.keeps_fields⟩
  | closes he =>
    refine .inr ⟨not_readyToFetch_of_phase ?_, rfl, rfl, rfl⟩
    rcases he with hp | hp <;> simp [hp]

/-! ### The invariant, phase by phase -/

/-- What the invariant says of a core that has not loaded yet: registers and memory as reset leaves them (R200). -/
structure FreshCore (s : State) : Prop where
  mem : s.mem = []
  acc : s.acc = 0
  ic : s.ic = 0
  ir : s.ir = 0
  fields : fieldsOk s
  pf : s.pf = false
  cause : s.cause = .none
  rdwait : s.rdwait = false
  readout : s.readout = none

/-- What the invariant says of a RUNNING core, READ's wait apart (R31, R32, R35, R37 to R39, R41, R62). -/
structure RunningCore (s : State) : Prop where
  mem : memoryOk s
  acc : inWord s.acc
  ic : s.ic ≤ Config.memSize
  fields : fieldsOk s
  pf : s.pf = true
  cause : s.cause = .none
  readout : s.readout = none

/-- Every Word lies in the accumulator's range (R31). -/
theorem accRange_of_inWord {v : Int} (hv : inWord v) : Config.accMin ≤ v ∧ v ≤ Config.accMax := by
  simp only [inWord_iff, accMin_eq, accMax_eq] at hv ⊢
  omega

theorem waitOk_of_not_waiting {s : State} (h : s.rdwait = false) : waitOk s := by
  intro hw
  rw [h] at hw
  cases hw

/-- In IDLE and LOADING the invariant is that of a fresh core, and LOADING has a source (R200 to R202). -/
theorem inv_iff_freshCore {s : State} (hp : s.phase = .idle ∨ s.phase = .loading) :
    Inv s ↔ FreshCore s ∧ (s.phase = .loading → s.source ≠ none) := by
  have hrun : s.phase ≠ .running := by rcases hp with hp | hp <;> simp [hp]
  have herr : s.phase ≠ .haltedError := by rcases hp with hp | hp <;> simp [hp]
  have hend : ¬ runEnded s := by rcases hp with hp | hp <;> simp [hp]
  constructor
  · rintro ⟨-, -, -, hf, ⟨hpf, hcause⟩, hwait, ⟨hboot, hsrc⟩, hro⟩
    obtain ⟨hmem, hacc, hic, hir⟩ := hboot hp
    exact ⟨⟨hmem, hacc, hic, hir, hf, by simpa [hrun] using hpf, hcause.2 herr,
      by simpa using fun hw => hrun (hwait hw).1, hro.resolve_right fun h => hend h.1⟩, hsrc⟩
  · rintro ⟨h, hsrc⟩
    refine ⟨?_, ?_, ?_, h.fields, ⟨by simp [h.pf, hrun], by simp [h.cause, herr]⟩, waitOk_of_not_waiting h.rdwait,
      ⟨fun _ => ⟨h.mem, h.acc, h.ic, h.ir⟩, hsrc⟩, .inl h.readout⟩
    · rw [memoryOk, h.mem]; rfl
    · simp [accOk, h.acc]
    · simp [counterOk, h.ic]

/-- In RUNNING the invariant is that of a running core, and of READ's wait. -/
theorem inv_iff_runningCore {s : State} (hp : s.phase = .running) : Inv s ↔ RunningCore s ∧ waitOk s := by
  constructor
  · rintro ⟨hmem, ⟨-, hacc⟩, ⟨hic, -⟩, hf, ⟨hpf, hcause⟩, hwait, -, hro⟩
    have hend : ¬ runEnded s := by simp [runEnded, hp]
    exact ⟨⟨hmem, by simpa [hp] using hacc, hic, hf, hpf.2 hp, hcause.2 (by simp [hp]),
      hro.resolve_right fun h => hend h.1⟩, hwait⟩
  · rintro ⟨h, hwait⟩
    have hnot : s.ic = Config.memSize → s.rdwait = false := by
      intro hic
      by_contra hw
      obtain ⟨-, -, hlt, -⟩ := hwait (by simpa using hw)
      omega
    exact ⟨h.mem, ⟨accRange_of_inWord h.acc, .inl h.acc⟩, ⟨h.ic, fun hic => .inl ⟨hp, hnot hic⟩⟩, h.fields,
      ⟨by simp [h.pf, hp], by simp [h.cause, hp]⟩, hwait, ⟨by simp [hp], by simp [hp]⟩, .inl h.readout⟩

/-- The invariant after an error stop that no READ waits through (R170). -/
theorem inv_raise {c : Cause} {u : State} (hc : c ≠ .none) (hmem : memoryOk u)
    (hacc : (Config.accMin ≤ u.acc ∧ u.acc ≤ Config.accMax) ∧ (inWord u.acc ∨ c = .accOverflow))
    (hic : u.ic ≤ Config.memSize ∧ (u.ic = Config.memSize → c = .counterOutOfRange))
    (hf : fieldsOk u) (hw : u.rdwait = false) (hro : u.readout = none) : Inv (raise c u) :=
  ⟨hmem, ⟨hacc.1, hacc.2.imp id fun h => ⟨rfl, h⟩⟩, ⟨hic.1, fun h => .inr ⟨rfl, hic.2 h⟩⟩, hf,
    ⟨by simp, by simp [hc]⟩, waitOk_of_not_waiting hw, ⟨by simp, by simp⟩, .inl hro⟩

namespace RunningCore

variable {s : State}

theorem advance (h : RunningCore s) (hic : s.ic < Config.memSize) : RunningCore (advance s) :=
  { h with ic := hic }

theorem setIc (h : RunningCore s) {a : Nat} (ha : a < Config.memSize) : RunningCore (setIc a s) :=
  { h with ic := ha.le }

theorem setAcc (h : RunningCore s) {v : Int} (hv : inWord v) : RunningCore (setAcc v s) :=
  { h with acc := hv }

theorem putWord (h : RunningCore s) {a : Nat} {v : Int} (ha : a < Config.memSize) (hv : inWord v) :
    RunningCore (putWord a v s) :=
  { h with mem := memSet_wf h.mem ha hv }

theorem emit (h : RunningCore s) (e : Event) : RunningCore (emit e s) := { h with }

theorem setRdwait (h : RunningCore s) (b : Bool) : RunningCore (setRdwait b s) := { h with }

theorem setInput (h : RunningCore s) (ls : List Line) : RunningCore (setInput ls s) := { h with }

theorem fetchDecode (h : RunningCore s) : RunningCore (fetchDecode s) :=
  { h with fields := ⟨memGet_inWord h.mem s.ic, rfl, rfl⟩ }

/-- With no READ waiting, a running core meets the invariant. -/
theorem inv (h : RunningCore s) (hp : s.phase = .running) (hw : s.rdwait = false) : Inv s :=
  (inv_iff_runningCore hp).2 ⟨h, waitOk_of_not_waiting hw⟩

/-- An error stop with any cause keeps the invariant, provided that `IC = 100` is left only by the counter's own stop. -/
theorem raise (h : RunningCore s) {c : Cause} (hw : s.rdwait = false) (hc : c ≠ .none)
    (hic : s.ic = Config.memSize → c = .counterOutOfRange) : Inv (raise c s) :=
  inv_raise hc h.mem ⟨accRange_of_inWord h.acc, .inl h.acc⟩ ⟨h.ic, hic⟩ h.fields hw h.readout

end RunningCore

/-! ### An instruction keeps the invariant -/

/-- The state `d` in which the meaning of `i` begins, fetched and decoded from a state that meets the invariant. -/
structure Dispatched (i : Instr) (d : State) : Prop extends RunningCore d where
  phase : d.phase = .running
  rdwait : d.rdwait = false
  atCounter : irAtCounter d
  opcode : d.opc = (i.code : Int)
  operand : i.operand = d.opd.toNat

theorem dispatched_of_runsInstr {s : State} {i : Instr} (hs : Inv s) (hr : runsInstr s i) :
    Dispatched i (fetchDecode s) := by
  obtain ⟨⟨hp, hw, -, hic⟩, hd⟩ := hr
  obtain ⟨hopc, hopd⟩ := dispatch_instr hd
  exact { ((inv_iff_runningCore hp).1 hs).1.fetchDecode with
    phase := hp, rdwait := hw, atCounter := ⟨hic, rfl⟩, opcode := hopc, operand := hopd }

theorem Dispatched.operand_lt {i : Instr} {d : State} (hd : Dispatched i d) : i.operand < Config.memSize := by
  obtain ⟨-, -, hopd⟩ := hd.fields
  rw [hd.operand, hopd]
  exact toNat_opdOf_lt d.ir

/-- The quotient of a Word is a Word (R137). -/
theorem inWord_divT {a : Int} (b : Int) (ha : inWord a) : inWord (divT a b) := by
  have h : (divT a b).natAbs ≤ a.natAbs := by
    rw [divT, Int.natAbs_tdiv]; exact Nat.div_le_self _ _
  simp only [inWord_iff] at ha ⊢
  omega

/-- The remainder of a Word is a Word (R138). -/
theorem inWord_modT {a : Int} (b : Int) (ha : inWord a) : inWord (modT a b) := by
  have h : (modT a b).natAbs ≤ a.natAbs := by
    rw [modT_eq_tmod, Int.natAbs_tmod]; exact Nat.mod_le _ _
  simp only [inWord_iff] at ha ⊢
  omega

/-- The product of two Words lies in the accumulator's range (R31). -/
theorem accRange_mul {a b : Int} (ha : inWord a) (hb : inWord b) :
    Config.accMin ≤ a * b ∧ a * b ≤ Config.accMax := by
  have h : |a * b| ≤ 9999 * 9999 := by
    rw [abs_mul]
    exact mul_le_mul (abs_le.2 ha) (abs_le.2 hb) (abs_nonneg b) (by decide)
  obtain ⟨hlo, hhi⟩ := abs_le.1 h
  simp only [accMin_eq, accMax_eq]
  omega

/-- Every exact result lies in the accumulator's range (R31, R136). -/
theorem CheckedResult.accRange {d : State} {i : Instr} {v : Int} (h : CheckedResult d i v) (hd : RunningCore d) :
    Config.accMin ≤ v ∧ v ≤ Config.accMax := by
  have hacc := hd.acc
  cases h with
  | add a =>
    have hm := memGet_inWord hd.mem a
    simp only [inWord_iff, accMin_eq, accMax_eq] at *; omega
  | subtract a =>
    have hm := memGet_inWord hd.mem a
    simp only [inWord_iff, accMin_eq, accMax_eq] at *; omega
  | multiply a => exact accRange_mul hacc (memGet_inWord hd.mem a)
  | modulo a => exact accRange_of_inWord (inWord_modT (memGet d.mem a) hacc)

/-- A result out of range is that of ADD, SUBTRACT or MULTIPLY: the remainder always fits (R138). -/
theorem CheckedResult.opcode_of_overflow {d : State} {i : Instr} {v : Int} (h : CheckedResult d i v)
    (hacc : inWord d.acc) (hv : ¬ inWord v) : i.code = 30 ∨ i.code = 31 ∨ i.code = 33 := by
  cases h with
  | add => exact .inl rfl
  | subtract => exact .inr (.inl rfl)
  | multiply => exact .inr (.inr rfl)
  | modulo => exact absurd (inWord_modT _ hacc) hv

theorem ZeroDivisor.cause_ne_none {d : State} {i : Instr} {c : Cause} (h : ZeroDivisor d i c) : c ≠ .none := by
  cases h <;> decide

theorem BranchTaken.target_eq {d : State} {i : Instr} {a : Nat} (h : BranchTaken d i a) : i.operand = a := by
  cases h <;> rfl

/-- Every meaning, begun in a dispatched state, ends in a state that meets the invariant. -/
theorem ExecEffect.inv {d t : State} {i : Instr} (h : ExecEffect d i t) (hd : Dispatched i d) : Inv t := by
  have hp := hd.phase
  have hw := hd.rdwait
  obtain ⟨hic, hir⟩ := hd.atCounter
  have hstop {c : Cause} : d.ic = Config.memSize → c = .counterOutOfRange := fun h => absurd h hic.ne
  cases h with
  | readIssued =>
    exact (inv_iff_runningCore (s := issueRead d) hp).2
      ⟨(hd.emit .prompt).setRdwait true, fun _ => ⟨hp, hd.opcode, hic, hir⟩⟩
  | wrote a => exact ((hd.emit (.value (memGet d.mem a))).advance hic).inv hp hw
  | loaded a => exact ((hd.setAcc (memGet_inWord hd.mem a)).advance hic).inv hp hw
  | stored a ha hv => exact ((hd.putWord ha hv).advance hic).inv hp hw
  | inRange _ hv => exact ((hd.setAcc hv).advance hic).inv hp hw
  | overflowed hc =>
    exact inv_raise (by decide) hd.mem ⟨hc.accRange hd.toRunningCore, .inr rfl⟩ ⟨hd.ic, hstop⟩ hd.fields hw hd.readout
  | divided a => exact ((hd.setAcc (inWord_divT _ hd.acc)).advance hic).inv hp hw
  | zeroDivisor hz => exact hd.raise hw hz.cause_ne_none hstop
  | jumped hb => exact (hd.setIc (hb.target_eq ▸ hd.operand_lt)).inv hp hw
  | passed => exact (hd.advance hic).inv hp hw
  | halted =>
    exact ⟨hd.mem, ⟨accRange_of_inWord hd.acc, .inl hd.acc⟩, ⟨hd.ic, fun h => absurd h hic.ne⟩, hd.fields,
      ⟨by simp, by simp [hd.cause]⟩, waitOk_of_not_waiting hw, ⟨by simp, by simp⟩, .inl hd.readout⟩

/-! ### Every step keeps the invariant -/

theorem FreshCore.inv_raise {s : State} (h : FreshCore s) {m : Memory} {c : Cause} (hm : m.wf = true)
    (hc : c ≠ .none) : Inv (raise c { s with mem := m }) :=
  Proofs.inv_raise hc hm ⟨by simp [h.acc], .inl (by simp [h.acc])⟩ ⟨by simp [h.ic], by simp [h.ic]⟩ h.fields h.rdwait
    h.readout

theorem FreshCore.inv_loadSuccess {s : State} (h : FreshCore s) {m : Memory} (hm : m.wf = true) :
    Inv (loadSuccess { s with mem := m }) :=
  RunningCore.inv ⟨hm, by simp [h.acc], by simp [h.ic], h.fields, rfl, h.cause, h.readout⟩ rfl h.rdwait

/-- The invariant is preserved by whatever a step can do. -/
theorem StepEffect.inv {s t : State} (h : StepEffect s t) (hs : Inv s) : Inv t := by
  cases h with
  | stays => exact hs
  | starts hp hsrc =>
    obtain ⟨hf, -⟩ := (inv_iff_freshCore (.inl hp)).1 hs
    exact (inv_iff_freshCore (.inr rfl)).2 ⟨{ hf with }, fun _ => hsrc⟩
  | notFound hp =>
    obtain ⟨hf, -⟩ := (inv_iff_freshCore (.inr hp)).1 hs
    exact hf.inv_raise (m := s.mem) (by simp [hf.mem]) (by decide)
  | loadStops hp hm hc =>
    obtain ⟨hf, -⟩ := (inv_iff_freshCore (.inr hp)).1 hs
    exact hf.inv_raise (hm hs.1) (by rintro rfl; cases hc)
  | loads hp hm =>
    obtain ⟨hf, -⟩ := (inv_iff_freshCore (.inr hp)).1 hs
    exact hf.inv_loadSuccess (hm hs.1)
  | readTakes hp hw _ hv ha =>
    obtain ⟨hrun, hwait⟩ := (inv_iff_runningCore hp).1 hs
    obtain ⟨-, -, hic, -⟩ := hwait hw
    have hlt : s.opd.toNat < Config.memSize := by
      obtain ⟨h0, h1⟩ := ha
      omega
    exact ((((hrun.setInput _).setRdwait false).putWord hlt (accept_inWord hv)).advance hic).inv hp rfl
  | readRejects hp =>
    obtain ⟨hrun, -⟩ := (inv_iff_runningCore hp).1 hs
    exact (((hrun.setInput _).setRdwait false).emit .reject).inv hp rfl
  | counterStops hp hw =>
    obtain ⟨hrun, -⟩ := (inv_iff_runningCore hp).1 hs
    exact hrun.raise hw (by decide) fun _ => rfl
  | unknownStops hf =>
    obtain ⟨hp, hw, -, hic⟩ := hf
    obtain ⟨hrun, -⟩ := (inv_iff_runningCore hp).1 hs
    exact hrun.fetchDecode.raise hw (by decide) fun h => absurd h hic.ne
  | runs hr he => exact he.inv (dispatched_of_runsInstr hs hr)
  | closes he =>
    obtain ⟨hmem, hacc, hic, hf, hctl, hwait, hboot, -⟩ := hs
    exact ⟨hmem, hacc, hic, hf, hctl, hwait, hboot, .inr ⟨he, rfl⟩⟩

/-- Settles O3: the invariant is kept by each effect a step can have. -/
theorem everyStepKeepsInvariant : Obligations.EveryStepKeepsInvariant :=
  fun _ _ hs h => (stepEffect_of_step h).inv hs

/-! ### The other statements about one step -/

/-- Settles O8, from the control moves of a step. -/
theorem phaseChangesOnlyAsTabled : Obligations.PhaseChangesOnlyAsTabled := by
  intro s t h
  obtain ⟨-, hp | hp | ⟨hs, ht⟩ | ⟨hs, ht⟩⟩ | ⟨ht, ⟨hs, -⟩ | ⟨hs, -⟩⟩ := (stepEffect_of_step h).control
  · exact .inl hp.symm
  · exact .inr (.inl hp)
  · exact .inr (.inr (.inl ⟨hs, .inl ht⟩))
  · exact .inr (.inr (.inr ⟨hs, .inl ht⟩))
  · exact .inr (.inr (.inl ⟨hs, .inr ht⟩))
  · exact .inr (.inr (.inr ⟨hs, .inr ht⟩))

/-- Settles O10, from the control moves of a step: where `CAUSE` is kept, HALTED_ERROR is not entered. -/
theorem causeWrittenOnlyAtErrorStop : Obligations.CauseWrittenOnlyAtErrorStop := by
  intro s t h
  obtain ⟨hc, hp⟩ | ⟨ht, hfrom⟩ := (stepEffect_of_step h).control
  · refine ⟨fun hne => absurd hc hne, fun hs ht => ?_⟩
    rw [ht] at hp
    obtain hp | ⟨-, hp⟩ | ⟨-, hp⟩ | ⟨-, hp⟩ := hp
    · exact absurd hp.symm hs
    all_goals cases hp
  · refine ⟨fun _ => ⟨?_, ht⟩, fun _ _ => hfrom⟩
    obtain ⟨hs, -⟩ | ⟨hs, -⟩ := hfrom <;> simp [hs]

/-- Settles O15. -/
theorem fetchAloneWritesInstructionRegister : Obligations.FetchAloneWritesInstructionRegister := by
  intro s t h
  obtain ⟨hf, hir, hopc, hopd⟩ | ⟨hf, hsame⟩ := (stepEffect_of_step h).instructionRegister
  · exact ⟨fun _ => ⟨hir, by rw [hir, hopc], by rw [hir, hopd]⟩, fun hn => absurd hf hn⟩
  · exact ⟨fun hf' => absurd hf' hf, fun _ => hsame⟩

/-- The instructions with a range-checked result (R130). -/
theorem CheckedResult.instr_eq {d : State} {i : Instr} {v : Int} (h : CheckedResult d i v) :
    ∃ a, i = .add a ∨ i = .subtract a ∨ i = .multiply a ∨ i = .modulo a := by
  cases h with
  | add a => exact ⟨a, .inl rfl⟩
  | subtract a => exact ⟨a, .inr (.inl rfl)⟩
  | multiply a => exact ⟨a, .inr (.inr (.inl rfl))⟩
  | modulo a => exact ⟨a, .inr (.inr (.inr rfl))⟩

/-- The instructions whose meaning can change the accumulator (R30). -/
theorem ExecEffect.writesAcc {d t : State} {i : Instr} (h : ExecEffect d i t) (hne : t.acc ≠ d.acc) :
    ∃ a, i = .load a ∨ i = .divide a ∨ i = .add a ∨ i = .subtract a ∨ i = .multiply a ∨ i = .modulo a := by
  cases h with
  | loaded a => exact ⟨a, .inl rfl⟩
  | divided a => exact ⟨a, .inr (.inl rfl)⟩
  | inRange hc => exact hc.instr_eq.imp fun _ hi => .inr (.inr hi)
  | overflowed hc => exact hc.instr_eq.imp fun _ hi => .inr (.inr hi)
  | _ => exact absurd rfl hne

/-- Settles O13: of the effects of a step only the run of an instruction writes the accumulator. -/
theorem accumulatorWrittenOnlyByItsInstructions : Obligations.AccumulatorWrittenOnlyByItsInstructions := by
  intro s t h hne
  cases stepEffect_of_step h with
  | runs hr he =>
    obtain ⟨a, hi⟩ := he.writesAcc hne
    refine ⟨a, ?_⟩
    obtain rfl | rfl | rfl | rfl | rfl | rfl := hi
    exacts [.inl hr, .inr (.inr (.inr (.inl hr))), .inr (.inl hr), .inr (.inr (.inl hr)),
      .inr (.inr (.inr (.inr (.inl hr)))), .inr (.inr (.inr (.inr (.inr hr))))]
  | _ => exact absurd rfl hne

/-- The rows of R34's table for the four range-checked results. -/
theorem advancesCounter_of_checkedResult {s : State} {i : Instr} {v : Int} (hr : runsInstr s i)
    (hc : CheckedResult (fetchDecode s) i v) (hv : inWord v) : advancesCounter s := by
  cases hc with
  | add a => exact .inr ⟨a, .inr (.inr (.inr (.inl ⟨hr, hv⟩)))⟩
  | subtract a => exact .inr ⟨a, .inr (.inr (.inr (.inr (.inl ⟨hr, hv⟩))))⟩
  | multiply a => exact .inr ⟨a, .inr (.inr (.inr (.inr (.inr (.inl ⟨hr, hv⟩)))))⟩
  | modulo a hb => exact .inr ⟨a, .inr (.inr (.inr (.inr (.inr (.inr (.inr (.inl ⟨hr, hb, hv⟩)))))))⟩

/-- The rows of R34's table for the two branches that are not taken. -/
theorem advancesCounter_of_branchPassed {s : State} {i : Instr} (hr : runsInstr s i)
    (hb : BranchPassed (fetchDecode s) i) : advancesCounter s := by
  cases hb with
  | branchNeg a h => exact .inr ⟨a, .inr (.inr (.inr (.inr (.inr (.inr (.inr (.inr (.inl ⟨hr, h⟩))))))))⟩
  | branchZero a h => exact .inr ⟨a, .inr (.inr (.inr (.inr (.inr (.inr (.inr (.inr (.inr ⟨hr, h⟩))))))))⟩

/-- How the run of an instruction moves the counter, where it does (R34). -/
theorem ExecEffect.movesCounter {s t : State} {i : Instr} (hr : runsInstr s i)
    (h : ExecEffect (fetchDecode s) i t) (hne : t.ic ≠ s.ic) :
    (t.ic = s.ic + 1 ∧ advancesCounter s) ∨ ∃ a, t.ic = a ∧ BranchTaken (fetchDecode s) i a := by
  cases h with
  | wrote a => exact .inl ⟨rfl, .inr ⟨a, .inl hr⟩⟩
  | loaded a => exact .inl ⟨rfl, .inr ⟨a, .inr (.inl hr)⟩⟩
  | stored a => exact .inl ⟨rfl, .inr ⟨a, .inr (.inr (.inl hr))⟩⟩
  | inRange hc hv => exact .inl ⟨rfl, advancesCounter_of_checkedResult hr hc hv⟩
  | divided a hb => exact .inl ⟨rfl, .inr ⟨a, .inr (.inr (.inr (.inr (.inr (.inr (.inl ⟨hr, hb⟩))))))⟩⟩
  | jumped hb => exact .inr ⟨_, rfl, hb⟩
  | passed hb => exact .inl ⟨rfl, advancesCounter_of_branchPassed hr hb⟩
  | _ => exact absurd rfl hne

/-- Settles O14: of the effects of a step only an accepted line and the run of an instruction move the counter. -/
theorem counterMovesOnlyAsTabled : Obligations.CounterMovesOnlyAsTabled := by
  intro s t h hne
  cases stepEffect_of_step h with
  | readTakes hp hw hin hv => exact ⟨hp, .inl ⟨rfl, .inl ⟨hw, _, _, _, hin, hv⟩⟩⟩
  | runs hr he =>
    have hp : s.phase = .running := hr.1.1
    refine ⟨hp, (he.movesCounter hr hne).imp_right ?_⟩
    rintro ⟨a, ha, hb⟩
    refine ⟨a, ha, ?_⟩
    cases hb with
    | branch => exact .inl hr
    | branchNeg _ hn => exact .inr (.inl ⟨hr, hn⟩)
    | branchZero _ hz => exact .inr (.inr ⟨hr, hz⟩)
  | _ => exact absurd rfl hne

/-- Settles O54. -/
theorem runStartsWhenRequested : Obligations.RunStartsWhenRequested := by
  intro s hp
  have hstep : step s = .next (startRun s) := by unfold step; rw [hp]
  rw [hstep]
  exact ⟨fun src hs => by rw [startRun_some hs], fun hs => by rw [startRun_none hs]⟩

/-! ### The record of a stop -/

/-- A state that meets the invariant and has not stopped has no stop to record. -/
theorem stopRecordOk_of_not_runEnded {s : State} (hs : Inv s) (he : ¬ runEnded s) : stopRecordOk s := by
  obtain ⟨-, -, -, -, ⟨-, hcause⟩, -⟩ := hs
  have hn : s.cause = .none := hcause.2 fun hp => he (.inr hp)
  refine ⟨fun hp => absurd (.inl hp) he, ?_⟩
  simp [hn, isLoadCause]

/-- Right after a load's stop only the rows of the load causes bind the state (R161). -/
theorem stopRecordOk_raise_load {c : Cause} {u : State} (hc : isLoadCause c = true)
    (hcore : u.acc = 0 ∧ u.ic = 0 ∧ u.ir = 0) (hm : c = .loadNotFound → u.mem = []) : stopRecordOk (raise c u) := by
  have vacuous {c' : Cause} {p : Prop} (hn : isLoadCause c' = false) (he : c = c') : p := by
    rw [he, hn] at hc
    cases hc
  exact ⟨by simp, fun _ => hcore, hm, vacuous rfl, vacuous rfl, vacuous rfl, vacuous rfl, vacuous rfl⟩

/-- Every meaning, begun in a dispatched state, leaves R161's record where it stops. -/
theorem ExecEffect.leavesRecord {d t : State} {i : Instr} (h : ExecEffect d i t) (hd : Dispatched i d) :
    stopRecordOk t := by
  have hinv := h.inv hd
  have hp := hd.phase
  have hat := hd.atCounter
  have hopc := hd.opcode
  cases h with
  | @overflowed _ v hc hv =>
    have hcode : d.opc = 30 ∨ d.opc = 31 ∨ d.opc = 33 := by
      have := hc.opcode_of_overflow hd.acc hv
      omega
    have hrow : ¬ inWord v ∧ (d.opc = 30 ∨ d.opc = 31 ∨ d.opc = 33) ∧ irAtCounter d := ⟨hv, hcode, hat⟩
    simpa [stopRecordOk, isLoadCause, irAtCounter] using hrow
  | zeroDivisor hz =>
    have hopd := hd.operand
    cases hz with
    | divide a hb =>
      have hzero : memGet d.mem d.opd.toNat = 0 := hopd ▸ hb
      simpa [stopRecordOk, isLoadCause] using ⟨hopc, hzero, hat⟩
    | modulo a hb =>
      have hzero : memGet d.mem d.opd.toNat = 0 := hopd ▸ hb
      simpa [stopRecordOk, isLoadCause] using ⟨hopc, hzero, hat⟩
  | halted => simpa [stopRecordOk, isLoadCause, hd.cause] using ⟨hopc, hat⟩
  | _ => exact stopRecordOk_of_not_runEnded hinv (by simp [hp])

/-- Whatever a step can do leaves R161's record where it stops, and keeps the record of an earlier stop. -/
theorem StepEffect.leavesRecord {s t : State} (h : StepEffect s t) (hs : Inv s) (hrec : stopRecordOk s) :
    stopRecordOk t := by
  have hinv := h.inv hs
  cases h with
  | stays => exact hrec
  | starts => exact stopRecordOk_of_not_runEnded hinv (by simp)
  | notFound hp =>
    obtain ⟨hf, -⟩ := (inv_iff_freshCore (.inr hp)).1 hs
    exact stopRecordOk_raise_load rfl ⟨hf.acc, hf.ic, hf.ir⟩ fun _ => hf.mem
  | loadStops hp _ hc hn =>
    obtain ⟨hf, -⟩ := (inv_iff_freshCore (.inr hp)).1 hs
    exact stopRecordOk_raise_load hc ⟨hf.acc, hf.ic, hf.ir⟩ fun h => absurd h hn
  | loads => exact stopRecordOk_of_not_runEnded hinv (by simp)
  | readTakes hp => exact stopRecordOk_of_not_runEnded hinv (by simp [hp])
  | readRejects hp => exact stopRecordOk_of_not_runEnded hinv (by simp [hp])
  | counterStops hp _ hic =>
    obtain ⟨hrun, -⟩ := (inv_iff_runningCore hp).1 hs
    have hend : s.ic = Config.memSize := le_antisymm hrun.ic (not_lt.1 hic)
    simpa [stopRecordOk, isLoadCause] using hend
  | unknownStops hf hd =>
    obtain ⟨-, -, -, hic⟩ := hf
    obtain ⟨hopc, hopd⟩ := dispatch_unknown hd
    subst hopc hopd
    simpa [stopRecordOk, isLoadCause] using ⟨hd, hic, rfl⟩
  | runs hr he => exact he.leavesRecord (dispatched_of_runsInstr hs hr)
  | closes => exact hrec

/-! ### A state that meets the invariant has a step -/

/-- The completion of a waiting READ violates no requirement where its address exists (R65). -/
theorem exists_completeRead_next {a : Int} {s : State} (ha : validAddr a) : ∃ t, completeRead a s = .next t := by
  unfold completeRead
  split
  · exact ⟨s, rfl⟩
  · dsimp only
    split
    · exact ⟨_, writeOperandAndAdvance_of_valid _ ha (accept_inWord ‹_›)⟩
    · exact ⟨_, rfl⟩

theorem exists_coreStep_next {s : State} (hp : s.phase = .running) (hs : Inv s) : ∃ t, coreStep s = .next t := by
  obtain ⟨hrun, hwait⟩ := (inv_iff_runningCore hp).1 hs
  unfold coreStep
  split
  · rename_i hw
    obtain ⟨-, hopc, -⟩ := hwait hw
    exact exists_completeRead_next (validAddr_opd_of_waiting hrun.fields hopc)
  · rename_i hw
    split
    · split
      · split
        · rename_i i hd
          exact exists_exec_next (by simpa using hw) (operand_lt_of_decode hd) hrun.acc
        · exact ⟨_, rfl⟩
      · exact ⟨_, rfl⟩
    · exact ⟨_, rfl⟩

/-- No access of a state that meets the invariant violates a requirement of R65. -/
theorem exists_step_next {s : State} (hs : Inv s) : ∃ t, step s = .next t := by
  unfold step
  split
  · exact ⟨_, rfl⟩
  · exact ⟨_, rfl⟩
  · exact exists_coreStep_next ‹_› hs
  · exact ⟨_, rfl⟩
  · exact ⟨_, rfl⟩

/-! ### Whole runs -/

theorem run_succ_of_step {s u : State} (h : step s = .next u) (k : Nat) :
    Host.Core.run core (k + 1) s = Host.Core.run core k u := by
  have hcore : core.step s = .next u := h
  simp only [Host.Core.run, hcore]

/-- A property that every step answers to and keeps holds after any number of steps. -/
theorem run_next_of_invariant {P : State → Prop} (hstep : ∀ s, P s → ∃ t, step s = .next t ∧ P t) {s : State} (hs : P s)
    (k : Nat) : ∃ t, Host.Core.run core k s = .next t ∧ P t := by
  induction k generalizing s with
  | zero => exact ⟨s, rfl, hs⟩
  | succ k ih =>
    obtain ⟨u, hu, hPu⟩ := hstep s hs
    rw [run_succ_of_step hu]
    exact ih hPu

theorem step_of_runEnded {s : State} (h : runEnded s) : step s = .next (closeRun s) := by
  unfold step
  rcases h with hp | hp <;> rw [hp]

theorem sameCore_refl (s : State) : sameCore s s := ⟨rfl, rfl, rfl, rfl, rfl, rfl, rfl, rfl, rfl, rfl⟩

/-- Settles O9: the run driver's turn keeps the core, the input and the end of the run. -/
theorem endedRunKeepsCoreForever : Obligations.EndedRunKeepsCoreForever := by
  intro s hend k
  have hstep : ∀ u, runEnded u ∧ sameCore s u ∧ u.input = s.input →
      ∃ t, step u = .next t ∧ runEnded t ∧ sameCore s t ∧ t.input = s.input := by
    rintro u ⟨hu, hcore, hin⟩
    exact ⟨closeRun u, step_of_runEnded hu, by simpa [runEnded] using hu, by simpa [sameCore] using hcore,
      by rw [closeRun_input, hin]⟩
  obtain ⟨t, hrun, -, hcore, hin⟩ := run_next_of_invariant hstep ⟨hend, sameCore_refl s, rfl⟩ k
  exact ⟨t, hrun, hcore, hin⟩

/-- The core of the reset state is fresh (R200). -/
theorem freshCore_reset : FreshCore State.reset := ⟨rfl, rfl, rfl, rfl, by decide, rfl, rfl, rfl, rfl⟩

/-- Settles O2. -/
theorem invariantHoldsAtReset : Obligations.InvariantHoldsAtReset := by
  have hinv : Inv State.reset := (inv_iff_freshCore (.inl rfl)).2 ⟨freshCore_reset, fun h => by cases h⟩
  exact ⟨hinv, stopRecordOk_of_not_runEnded hinv (by decide)⟩

/-- The reset state with a program source requested and console lines supplied meets the invariant (R175, R201). -/
theorem inv_requested (src : ProgramSource) (lines : List Line) :
    Inv { requestRun src State.reset with input := lines } :=
  (inv_iff_freshCore (.inl rfl)).2 ⟨{ freshCore_reset with }, fun h => by cases h⟩

/-- Settles O7: the invariant and the record of the stops hold at the start, and every step answers and keeps both. -/
theorem everyRunFromResetIsSafe : Obligations.EveryRunFromResetIsSafe := by
  intro src lines k
  have hstep : ∀ s, Inv s ∧ stopRecordOk s → ∃ t, step s = .next t ∧ Inv t ∧ stopRecordOk t := by
    rintro s ⟨hs, hrec⟩
    obtain ⟨t, ht⟩ := exists_step_next hs
    have he := stepEffect_of_step ht
    exact ⟨t, ht, he.inv hs, he.leavesRecord hs hrec⟩
  have hs := inv_requested src lines
  exact run_next_of_invariant hstep ⟨hs, stopRecordOk_of_not_runEnded hs (by simp [requestRun, State.reset])⟩ k

end Sys2Proof.Proofs

/-! PROOFS. The statements about memory: which accesses meet their requirement, who writes a word, that a stored word is
what the next fetch reads, and what a load leaves. -/

namespace Sys2Proof.Proofs

open Sys2Proof.Machine Sys2Proof.Safety

/-! ### The requirements of the memory primitives -/

/-- Settles O5: no step from a state that meets the invariant makes an access whose requirement fails. -/
theorem invariantStatesAlwaysStep : Obligations.InvariantStatesAlwaysStep :=
  fun _ hs => exists_step_next hs

theorem readOperand_of_not_lt {a : Nat} (s : State) (k : Int → Result) (ha : ¬ a < Config.memSize) :
    readOperand a s k = .fault (.addressOutOfRange a) :=
  if_neg (mt (validAddr_natCast a).1 ha)

theorem execStore_of_not_lt {a : Nat} (s : State) (ha : ¬ a < Config.memSize) :
    execStore a s = .fault (.addressOutOfRange a) :=
  if_neg (mt (validAddr_natCast a).1 ha)

theorem execStore_of_not_inWord {a : Nat} {s : State} (ha : a < Config.memSize) (hv : ¬ inWord s.acc) :
    execStore a s = .fault (.valueOutOfRange s.acc) := by
  rw [execStore, writeOperandAndAdvance, memWrite, if_pos ((validAddr_natCast a).2 ha), if_neg hv]

theorem execStore_of_inWord {a : Nat} {s : State} (ha : a < Config.memSize) (hv : inWord s.acc) :
    execStore a s = .next (advance (putWord a s.acc s)) :=
  writeOperandAndAdvance_of_valid s ((validAddr_natCast a).2 ha) hv

/-- Settles O41: of the eight instructions STORE accesses its operand to write, the others to read. -/
theorem unmetAccessRequirementFaults : Obligations.UnmetAccessRequirementFaults := by
  intro s a
  refine ⟨fun ha i hi => ?_, execStore_of_not_inWord⟩
  have hread (k : Int → Result) := readOperand_of_not_lt s k (not_lt.2 ha)
  simp only [List.mem_cons, List.not_mem_nil, or_false] at hi
  obtain rfl | rfl | rfl | arithmetic := hi
  · rw [exec, execWrite, hread]
  · rw [exec, execLoad, hread]
  · exact execStore_of_not_lt s (not_lt.2 ha)
  · obtain rfl | rfl | rfl | rfl | rfl := arithmetic
    all_goals simp only [exec, execAdd, execSubtract, execDivide, execMultiply, execModulo, hread]

/-! ### Who writes a word -/

/-- A write that changes the word at an address is a write to that address, and leaves its value there (R62). -/
theorem eq_of_memGet_memSet_ne {m : Memory} (hm : m.wf = true) {a b : Nat} {v : Int}
    (hne : memGet (memSet m a v) b ≠ memGet m b) : b = a ∧ memGet (memSet m a v) b = v := by
  rw [memGet_memSet hm] at hne ⊢
  by_cases hb : b = a
  · exact ⟨hb, if_pos hb⟩
  · exact absurd (if_neg hb) hne

/-- Of the meanings, begun where no READ waits, only that of STORE writes memory (R63). -/
theorem ExecEffect.writesMemory {d t : State} {i : Instr} {a : Nat} (h : ExecEffect d i t) (hm : memoryOk d)
    (hne : memGet t.mem a ≠ memGet d.mem a) : i = .store a ∧ memGet t.mem a = d.acc := by
  cases h with
  | stored b =>
    obtain ⟨rfl, hv⟩ := eq_of_memGet_memSet_ne hm hne
    exact ⟨rfl, hv⟩
  | _ => exact absurd rfl hne

/-- Settles O12: of the effects of a step outside the loader only an accepted line and the run of a STORE write
memory. -/
theorem memoryWrittenOnlyByReadAndStore : Obligations.MemoryWrittenOnlyByReadAndStore := by
  intro s t a hm h hload hne
  cases stepEffect_of_step h with
  | loadStops hp => exact absurd hp hload
  | loads hp => exact absurd hp hload
  | @readTakes line rest v hp hw hin hv haddr =>
    obtain ⟨rfl, hword⟩ := eq_of_memGet_memSet_ne hm hne
    exact .inl ⟨hp, hw, (Int.toNat_of_nonneg haddr.1).symm, line, rest, hin, hv.trans (congrArg some hword.symm)⟩
  | runs hr he =>
    obtain ⟨rfl, hword⟩ := he.writesMemory hm hne
    exact .inr ⟨hr, hword⟩
  | _ => exact absurd rfl hne

/-! ### A stored word is fetched -/

/-- The step of a core about to fetch is the meaning of the instruction at its counter (R91 to R94). -/
theorem step_of_runsInstr {s : State} {i : Instr} (hr : runsInstr s i) : step s = exec i (fetchDecode s) := by
  obtain ⟨⟨hp, hw, hpf, hic⟩, hd⟩ := hr
  have hd' : decode (fetchDecode s).ir = .instr i := hd
  simp only [step, hp, coreStep, hw, hpf, if_pos hic, hd', if_true, Bool.false_eq_true, if_false]

/-- The state a STORE leaves (R121). -/
theorem step_of_runsInstr_store {s : State} {a : Nat} (hv : inWord s.acc) (hr : runsInstr s (.store a)) :
    step s = .next (advance (putWord a s.acc (fetchDecode s))) :=
  (step_of_runsInstr hr).trans (execStore_of_inWord (operand_lt_of_decode hr.2) hv)

/-- Settles O28: the fetch after a STORE reads memory as the STORE left it. -/
theorem nextFetchSeesTheStore : Obligations.NextFetchSeesTheStore := by
  intro s a hm hv hr
  have hword : memGet (memSet s.mem a s.acc) a = s.acc := by rw [memGet_memSet hm, if_pos rfl]
  refine ⟨_, step_of_runsInstr_store hv hr, rfl, hword, ?_, ?_⟩
  · rintro rfl i hi
    obtain ⟨⟨hp, hw, hpf, -⟩, hd⟩ := hr
    refine step_of_runsInstr ⟨⟨hp, hw, hpf, operand_lt_of_decode hd⟩, ?_⟩
    exact (congrArg decode hword).trans hi
  · rintro rfl
    exact hword

/-! ### What a load leaves -/

/-- Writing the next word of a program after the words before it (R202). -/
theorem holdsProgram_memSet {m : Memory} {vals : List Int} (hm : m.wf = true) (h : holdsProgram m vals) (v : Int) :
    holdsProgram (memSet m vals.length v) (vals ++ [v]) := by
  intro a
  rw [memGet_memSet hm, h a]
  rcases Nat.lt_trichotomy a vals.length with hlt | rfl | hgt
  · rw [if_neg hlt.ne, List.getD_append _ _ _ _ hlt]
  · simp
  · rw [if_neg hgt.ne', List.getD_eq_default _ _ hgt.le, List.getD_eq_default _ _ (by simpa using hgt)]

theorem loadLines_cons_of_accept {line : Line} {v : Int} (rest : List Line) (readError : Bool) {i : Nat} (s : State)
    (hi : i < Config.memSize) (ha : accept line = some v) :
    loadLines (line :: rest) readError i s = loadLines rest readError (i + 1) (putWord i v s) := by
  simp only [loadLines, if_neg hi.ne, ha]

/-- Where memory holds the words `before` of a program, the loader's loop writes the accepted lines `good` after them
and goes on with the lines that follow (R202). -/
theorem loadLines_append {good : List Line} {vals : List Int} (rest : List Line) (readError : Bool)
    (hg : spells good vals) {before : List Int} {s : State} (hm : s.mem.wf = true) (hb : holdsProgram s.mem before)
    (hlen : before.length + good.length ≤ Config.memSize) :
    ∃ m, holdsProgram m (before ++ vals) ∧
      loadLines (good ++ rest) readError before.length s =
        loadLines rest readError (before.length + good.length) { s with mem := m } := by
  induction good generalizing vals before s with
  | nil =>
    obtain rfl : vals = [] := by simpa [spells] using hg
    exact ⟨s.mem, by simpa using hb, rfl⟩
  | cons line good ih =>
    cases vals with
    | nil => simp [spells] at hg
    | cons v vals =>
      obtain ⟨ha, hg⟩ := List.cons_eq_cons.1 hg
      rw [List.length_cons] at hlen
      have hi : before.length < Config.memSize := by omega
      obtain ⟨m, hholds, hload⟩ := ih hg (s := putWord before.length v s) (memSet_wf hm hi (accept_inWord ha))
        (holdsProgram_memSet hm hb v) (by rw [List.length_append, List.length_singleton]; omega)
      refine ⟨m, by simpa using hholds, ?_⟩
      rw [List.cons_append, loadLines_cons_of_accept _ _ s hi ha, List.length_cons, Nat.add_comm good.length,
        ← Nat.add_assoc]
      simpa using hload

/-- The step of LOADING from zero memory, once the loop has written the accepted lines `good` (R202, R203). -/
theorem step_of_loading_append {s : State} {good rest : List Line} {readError : Bool} {vals : List Int}
    (hp : s.phase = .loading) (hs : s.source = some (.opened (good ++ rest) readError)) (hmem : s.mem = [])
    (hg : spells good vals) (hlen : good.length ≤ Config.memSize) :
    ∃ m, holdsProgram m vals ∧ step s = .next (loadLines rest readError good.length { s with mem := m }) := by
  have hzero : holdsProgram s.mem [] := fun a => by rw [hmem]; rfl
  obtain ⟨m, hholds, hload⟩ := loadLines_append rest readError hg (by rw [hmem]; rfl) hzero (by simpa using hlen)
  rw [List.length_nil, Nat.zero_add] at hload
  refine ⟨m, hholds, ?_⟩
  simp only [step, hp, runLoader, hs, hload]

/-- Settles O56: with no line after the accepted ones and no read error, the loop ends in the successful load. -/
theorem loadFillsMemoryInOrder : Obligations.LoadFillsMemoryInOrder := by
  refine ⟨fun _ => rfl, fun s lines vals hp hs hmem hg hlen => ?_⟩
  obtain ⟨m, hholds, hstep⟩ := step_of_loading_append (rest := []) hp (by rwa [List.append_nil]) hmem hg hlen
  refine ⟨m, hholds, hstep.trans ?_⟩
  simp [loadLines, loadSuccess, emit]

end Sys2Proof.Proofs

/-! PROOFS. The statements about the encoding, by way of the decoded fields of a word: decode is the instruction `i`
exactly when the fields are the code and the operand of `i`. Then the statements about fetch, decode and dispatch. -/

namespace Sys2Proof.Proofs

open Sys2Proof.Machine Sys2Proof.Safety

/-! ### Instructions and the fields of words -/

/-- An instruction is well-formed when its operand is an address, whatever its constructor (R88). -/
theorem wellFormed_iff (i : Instr) : i.wellFormed = true ↔ i.operand < Config.memSize := by
  cases i <;> exact decide_eq_true_iff

/-- Dispatch on an instruction's own code and operand finds that instruction (R84). -/
theorem dispatch_code_operand (i : Instr) : dispatch i.code i.operand = .instr i := by
  cases i <;> rfl

/-- The two fields of a word make up the word, whatever its sign (R81, R82). -/
theorem hundred_mul_opcOf_add_opdOf (w : Int) : 100 * opcOf w + opdOf w = w := by
  rw [Int.mul_comm]; exact divT_mul_add_modT w 100

/-- The thirteen operation codes (R84). -/
abbrev instrCodes : List Int := [10, 11, 20, 21, 30, 31, 32, 33, 34, 40, 41, 42, 43]

theorem instrCodes_pos : ∀ c ∈ instrCodes, 0 < c := by decide

theorem code_mem_instrCodes (i : Instr) : (i.code : Int) ∈ instrCodes := by
  cases i <;> simp [Instr.code]

theorem exists_instr_of_mem_instrCodes {c : Int} (h : c ∈ instrCodes) (n : Nat) :
    ∃ i : Instr, (i.code : Int) = c ∧ i.operand = n := by
  simp only [List.mem_cons, List.not_mem_nil, or_false] at h
  obtain rfl | rfl | rfl | rfl | arithmeticOrControl := h
  · exact ⟨.read n, rfl, rfl⟩
  · exact ⟨.write n, rfl, rfl⟩
  · exact ⟨.load n, rfl, rfl⟩
  · exact ⟨.store n, rfl, rfl⟩
  obtain rfl | rfl | rfl | rfl | rfl | control := arithmeticOrControl
  · exact ⟨.add n, rfl, rfl⟩
  · exact ⟨.subtract n, rfl, rfl⟩
  · exact ⟨.divide n, rfl, rfl⟩
  · exact ⟨.multiply n, rfl, rfl⟩
  · exact ⟨.modulo n, rfl, rfl⟩
  obtain rfl | rfl | rfl | rfl := control
  · exact ⟨.branch n, rfl, rfl⟩
  · exact ⟨.branchNeg n, rfl, rfl⟩
  · exact ⟨.branchZero n, rfl, rfl⟩
  · exact ⟨.halt n, rfl, rfl⟩

/-- A word with one of the thirteen codes is not negative, so its operand is not either (R88). -/
theorem opdOf_nonneg_of_opcOf_mem {w : Int} (h : opcOf w ∈ instrCodes) : 0 ≤ opdOf w :=
  opdOf_nonneg_of_opcOf_pos (instrCodes_pos _ h)

/-! ### What a word decodes to -/

/-- The decode of a word is read off its two fields (R82, R84). The conversion of the operand to a natural number loses
nothing, because a word with an instruction's code is not negative (R88). -/
theorem decode_eq_instr_iff {w : Int} {i : Instr} :
    decode w = .instr i ↔ opcOf w = (i.code : Int) ∧ opdOf w = (i.operand : Int) := by
  constructor
  · intro h
    obtain ⟨hopc, hopd⟩ := dispatch_instr h
    have hnn : 0 ≤ opdOf w := opdOf_nonneg_of_opcOf_mem (hopc ▸ code_mem_instrCodes i)
    exact ⟨hopc, by rw [hopd, Int.toNat_of_nonneg hnn]⟩
  · rintro ⟨hopc, hopd⟩
    rw [decode, hopc, hopd, dispatch_code_operand]

/-- A word is an instruction exactly when its operation code is one of the thirteen (R85, R93). -/
theorem exists_decode_eq_instr_iff {w : Int} : (∃ i, decode w = .instr i) ↔ opcOf w ∈ instrCodes := by
  constructor
  · rintro ⟨i, h⟩
    rw [(decode_eq_instr_iff.1 h).1]
    exact code_mem_instrCodes i
  · intro h
    obtain ⟨i, hcode, hoperand⟩ := exists_instr_of_mem_instrCodes h (opdOf w).toNat
    have hnn := opdOf_nonneg_of_opcOf_mem h
    exact ⟨i, decode_eq_instr_iff.2 ⟨hcode.symm, by rw [hoperand, Int.toNat_of_nonneg hnn]⟩⟩

/-- Every other operation code is reported as unknown, with both fields (R85, R86). -/
theorem decode_of_opcOf_not_mem {w : Int} (h : opcOf w ∉ instrCodes) :
    decode w = .unknownOpcode (opcOf w) (opdOf w) := by
  cases hd : decode w with
  | instr i => exact absurd (exists_decode_eq_instr_iff.1 ⟨i, hd⟩) h
  | unknownOpcode p q =>
    obtain ⟨rfl, rfl⟩ := dispatch_unknown hd
    rfl

/-- Settles O18: the fields of the word of `i` are the code and the operand of `i`. -/
theorem decodeReadsBackEveryEncoding : Obligations.DecodeReadsBackEveryEncoding :=
  fun i hi => decode_eq_instr_iff.2 (Laws.EncodingFields.of_lt ((wellFormed_iff i).1 hi))

/-- Settles O19: the code and the operand of the decoded instruction are the fields of the word, which make it up. -/
theorem decodedWordIsTheEncoding : Obligations.DecodedWordIsTheEncoding := by
  intro w i h
  obtain ⟨hopc, hopd⟩ := decode_eq_instr_iff.1 h
  refine ⟨(wellFormed_iff i).2 (operand_lt_of_decode h), ?_⟩
  rw [encode, ← hopc, ← hopd, hundred_mul_opcOf_add_opdOf]

/-- Settles O20: `c` and `d` are the fields of the word. -/
theorem instructionWordsAreExactlyTabled : Obligations.InstructionWordsAreExactlyTabled := by
  intro w
  refine exists_decode_eq_instr_iff.trans ⟨fun h => ?_, ?_⟩
  · have hnn := opdOf_nonneg_of_opcOf_mem h
    have hlt := toNat_opdOf_lt w
    rw [memSize_eq] at hlt
    exact ⟨opcOf w, h, opdOf w, hnn, by omega, (hundred_mul_opcOf_add_opdOf w).symm⟩
  · rintro ⟨c, hc, d, hd0, hd99, rfl⟩
    have hpos := instrCodes_pos c hc
    have hopc : opcOf (100 * c + d) = c := by rw [opcOf_of_nonneg (by omega)]; omega
    rwa [hopc]

/-- Settles O21: the operation code of a negative word is not positive, so it is none of the thirteen. -/
theorem negativeWordsAreUnknownOpcodes : Obligations.NegativeWordsAreUnknownOpcodes := by
  intro w hw hneg
  obtain ⟨hmin, -⟩ := (inWord_iff w).1 hw
  have hopc := opcOf_of_neg hneg
  have hopd := opdOf_of_neg hneg
  have hunknown : opcOf w ∉ instrCodes := fun h => by
    have hpos := instrCodes_pos _ h
    omega
  exact ⟨by omega, by omega, by omega, by omega, hundred_mul_opcOf_add_opdOf w, decode_of_opcOf_not_mem hunknown⟩

/-- Settles O22. -/
theorem decodesTheSpecsExampleWords : Obligations.DecodesTheSpecsExampleWords := by
  unfold Obligations.DecodesTheSpecsExampleWords
  decide

/-! ### Fetch, decode and dispatch -/

/-- In RUNNING it is the core's turn (R94). -/
theorem step_of_running {s : State} (hp : s.phase = .running) : step s = coreStep s := by
  simp only [step, hp]

/-- A core that fetches where the counter is no address stops (R91). -/
theorem step_of_not_counterValid {s : State} (hp : s.phase = .running) (hw : s.rdwait = false) (hpf : s.pf = true)
    (hic : ¬ counterValid s) : step s = .next (raise .counterOutOfRange s) := by
  rw [step_of_running hp, coreStep, if_neg (by simp [hw]), if_pos hpf, if_neg hic]

/-- A core that fetches a word with an unknown operation code stops in the decoded state (R93). -/
theorem step_of_decode_unknown {s : State} {p q : Int} (hf : readyToFetch s)
    (hd : decode (memGet s.mem s.ic) = .unknownOpcode p q) :
    step s = .next (raise .unknownOpcode (fetchDecode s)) := by
  obtain ⟨hp, hw, hpf, hic⟩ := hf
  rw [step_of_running hp, coreStep, if_neg (by simp [hw]), if_pos hpf, if_pos hic, fetchDecode_ir, hd]

/-- Settles O23. -/
theorem stepRunsTheDecodedInstruction : Obligations.StepRunsTheDecodedInstruction :=
  fun _ _ hf hd => step_of_runsInstr ⟨hf, hd⟩

/-- Settles O24: both sides are the completion at the operand `a`. -/
theorem stepCompletesWaitingRead : Obligations.StepCompletesWaitingRead := by
  intro s a hp hw hopd
  calc step s = completeRead s.opd s := by rw [step_of_running hp, coreStep, if_pos hw]
    _ = completeRead (a : Int) s := by rw [hopd]
    _ = exec (.read a) s := by rw [exec, execRead, if_pos hw]

/-- Settles O25. -/
theorem fetchAndDecodeWriteTheirRegisters : Obligations.FetchAndDecodeWriteTheirRegisters := by
  refine ⟨fun s hp hw hpf => ⟨fun hic => ?_, fun _ => rfl⟩, fun _ => rfl⟩
  exact step_of_not_counterValid hp hw hpf (by rw [counterValid, hic]; decide)

/-- Settles O26: whether the word decodes to an instruction is decided by its operation code. -/
theorem dispatchRunsOrStopsUnknown : Obligations.DispatchRunsOrStopsUnknown := by
  intro s hf
  constructor
  · intro h
    exact step_of_decode_unknown hf (decode_of_opcOf_not_mem h)
  · intro h
    obtain ⟨i, hd⟩ := exists_decode_eq_instr_iff.2 h
    obtain ⟨hopc, hopd⟩ := decode_eq_instr_iff.1 hd
    exact ⟨i, hopc.symm, hopd.symm, step_of_runsInstr ⟨hf, hd⟩⟩

end Sys2Proof.Proofs

/-! PROOFS. The statements about READ and WRITE. A rejected line sends READ through two steps that change nothing but
the console; the acceptance function is the token grammar, parsed from the left; and a number below 10000 is padded to
exactly four digits, so that what WRITE prints is a token of the grammar. -/

namespace Sys2Proof.Proofs

open Sys2Proof.Machine Sys2Proof.Safety

/-! ### The two halves of READ -/

/-- The issue of a READ (R110). -/
theorem exec_read_of_not_waiting {s : State} (a : Nat) (hw : s.rdwait = false) :
    exec (.read a) s = .next (issueRead s) :=
  if_neg (by simp [hw])

/-- The completion of a READ that waits (R110). -/
theorem exec_read_of_waiting {s : State} (a : Nat) (hw : s.rdwait = true) :
    exec (.read a) s = completeRead (a : Int) s :=
  if_pos hw

/-- The completion with an accepted line (R110). -/
theorem completeRead_of_accept {a : Int} {s : State} {line : Line} {rest : List Line} {v : Int} (ha : validAddr a)
    (hin : s.input = line :: rest) (hv : accept line = some v) :
    completeRead a s = .next (advance (putWord a.toNat v (setRdwait false (setInput rest s)))) := by
  simp only [completeRead, hin, hv]
  exact writeOperandAndAdvance_of_valid _ ha (accept_inWord hv)

/-- `s` once its READ has turned a line down, with the lines `rest` left (R112). -/
def lineRejected (rest : List Line) (s : State) : State := emit .reject (setRdwait false (setInput rest s))

/-- The completion with a rejected line (R112). -/
theorem completeRead_of_reject {s : State} {line : Line} {rest : List Line} (a : Int) (hin : s.input = line :: rest)
    (hv : accept line = none) : completeRead a s = .next (lineRejected rest s) := by
  simp only [completeRead, hin, hv, lineRejected]

/-- Settles O30. -/
theorem readIssuePromptsAndWaits : Obligations.ReadIssuePromptsAndWaits :=
  fun _ a hw => exec_read_of_not_waiting a hw

/-- Settles O31: the value of an accepted line is a Word, and memory in canonical form reads it back where it was
written. -/
theorem readStoresAcceptedLine : Obligations.ReadStoresAcceptedLine := by
  intro s a line rest v hm ha hw hin hv
  refine ⟨?_, accept_inWord hv, by rw [memGet_memSet hm, if_pos rfl], fun b hb => by rw [memGet_memSet hm, if_neg hb]⟩
  rw [exec_read_of_waiting a hw, completeRead_of_accept ((validAddr_natCast a).2 ha) hin hv]
  rfl

/-- Settles O32. -/
theorem readRejectsLine : Obligations.ReadRejectsLine := by
  intro s a line rest hw hin hv
  rw [exec_read_of_waiting a hw, completeRead_of_reject a hin hv]
  rfl

/-! ### Rejected lines -/

/-- In RUNNING a waiting READ takes the step (R94). -/
theorem step_of_waiting {s : State} (hp : s.phase = .running) (hw : s.rdwait = true) :
    step s = completeRead s.opd s := by
  rw [step_of_running hp, coreStep, if_pos hw]

/-- Where the instruction register and its fields already show the word at the counter, fetching it again changes
nothing (R91, R92). -/
theorem fetchDecode_of_fetched {s : State} (hir : s.ir = memGet s.mem s.ic) (hopc : s.opc = opcOf s.ir)
    (hopd : s.opd = opdOf s.ir) : fetchDecode s = s := by
  calc fetchDecode s = decodedState s := rfl
    _ = s := by rw [decodedState, ← hir, ← hopc, ← hopd]

/-- The word a waiting READ holds decodes to that READ (R42, R110). -/
theorem decode_of_waiting {s : State} (hf : fieldsOk s) (ho : s.opc = 10) : decode s.ir = .instr (.read s.opd.toNat) := by
  obtain ⟨hnn, -⟩ := validAddr_opd_of_waiting hf ho
  obtain ⟨-, hopc, hopd⟩ := hf
  refine decode_eq_instr_iff.2 ⟨hopc.symm.trans ho, ?_⟩
  rw [← hopd]
  exact (Int.toNat_of_nonneg hnn).symm

/-- `s` once its READ has turned a line down and prompted again, with the lines `rest` left. -/
def promptedAgain (rest : List Line) (s : State) : State :=
  { s with input := rest, output := s.output ++ [.reject, .prompt] }

/-- A rejected line takes two steps: READ turns it down, and the core, still at the same counter, fetches the same READ
and issues it again (R110, R112). -/
theorem steps_of_reject {s : State} {line : Line} {rest : List Line} (hs : Inv s) (hw : s.rdwait = true)
    (hin : s.input = line :: rest) (hv : accept line = none) :
    step s = .next (lineRejected rest s) ∧ step (lineRejected rest s) = .next (promptedAgain rest s) := by
  have ⟨_, _, _, _, _, hwait, _⟩ := hs
  obtain ⟨hp, hread, hic, hir⟩ := hwait hw
  obtain ⟨hrun, -⟩ := (inv_iff_runningCore hp).1 hs
  obtain ⟨-, hopc, hopd⟩ := hrun.fields
  have hd : decode (memGet s.mem s.ic) = .instr (.read s.opd.toNat) := hir ▸ decode_of_waiting hrun.fields hread
  have hagain : runsInstr (lineRejected rest s) (.read s.opd.toNat) := ⟨⟨hp, rfl, hrun.pf, hic⟩, hd⟩
  have hsame : fetchDecode (lineRejected rest s) = lineRejected rest s := fetchDecode_of_fetched hir hopc hopd
  refine ⟨(step_of_waiting hp hw).trans (completeRead_of_reject s.opd hin hv), ?_⟩
  rw [step_of_runsInstr hagain, hsame, exec_read_of_not_waiting _ rfl]
  simp [issueRead, promptedAgain, lineRejected, emit, setRdwait, setInput, hw]

/-- Settles O34, by induction on the rejected lines: the state after each of them meets the invariant and waits. -/
theorem rejectedLinesOnlyRepeatThePrompt : Obligations.RejectedLinesOnlyRepeatThePrompt := by
  intro bad rest s hs hw hin hbad
  induction bad generalizing s with
  | nil =>
    obtain rfl : s.input = rest := hin
    simp [Host.Core.run]
  | cons line bad ih =>
    obtain ⟨hline, hbad⟩ := List.forall_mem_cons.1 hbad
    obtain ⟨hreject, hprompt⟩ := steps_of_reject (rest := bad ++ rest) hs hw hin hline
    have hinv := everyStepKeepsInvariant _ _ (everyStepKeepsInvariant _ _ hs hreject) hprompt
    calc Host.Core.run core (2 * (line :: bad).length) s
        = Host.Core.run core (2 * bad.length) (promptedAgain (bad ++ rest) s) := by
          rw [List.length_cons, Nat.mul_succ, run_succ_of_step hreject, run_succ_of_step hprompt]
      _ = _ := ih _ hinv hw rfl hbad
      _ = _ := by simp [promptedAgain]

/-! ### The token grammar -/

/-- The number that decimal digits spell after the number `n`. -/
abbrev numberAfter (n : Nat) (digits : List Nat) : Nat := digits.foldl (fun n d => 10 * n + d) n

theorem isDigit_digitChar {d : Nat} (hd : d < 10) : isDigit (digitChar d) = true := by
  revert d; decide

theorem digitValue_digitChar {d : Nat} (hd : d < 10) : digitValue (digitChar d) = d := by
  revert d; decide

/-- A digit is the character of its value. -/
theorem exists_eq_digitChar {c : Char} (h : isDigit c = true) : ∃ d < 10, c = digitChar d := by
  simp only [isDigit, Bool.and_eq_true, decide_eq_true_eq] at h
  refine ⟨digitValue c, by unfold digitValue; omega, ?_⟩
  rw [digitChar, digitValue, Nat.add_sub_cancel' h.1, Char.ofNat_toNat]

theorem parseDigits_digitChar_cons {d : Nat} (hd : d < 10) (cs : Text) (n : Nat) :
    parseDigits (digitChar d :: cs) n = parseDigits cs (10 * n + d) := by
  rw [parseDigits, if_pos (isDigit_digitChar hd), digitValue_digitChar hd]

/-- Digits spell a number. -/
theorem parseDigits_map_digitChar {digits : List Nat} (h : ∀ d ∈ digits, d < 10) (n : Nat) :
    parseDigits (digits.map digitChar) n = some (numberAfter n digits) := by
  induction digits generalizing n with
  | nil => rfl
  | cons d digits ih =>
    obtain ⟨hd, h⟩ := List.forall_mem_cons.1 h
    rw [List.map_cons, parseDigits_digitChar_cons hd, ih h]
    rfl

/-- Nothing but digits spells a number. -/
theorem exists_digits_of_parseDigits {cs : Text} {n m : Nat} (h : parseDigits cs n = some m) :
    ∃ digits : List Nat, (∀ d ∈ digits, d < 10) ∧ cs = digits.map digitChar := by
  induction cs generalizing n with
  | nil => exact ⟨[], by simp, rfl⟩
  | cons c cs ih =>
    rw [parseDigits] at h
    split at h
    · obtain ⟨d, hd, rfl⟩ := exists_eq_digitChar ‹_›
      obtain ⟨digits, hdigits, rfl⟩ := ih h
      exact ⟨d :: digits, List.forall_mem_cons.2 ⟨hd, hdigits⟩, rfl⟩
    · cases h

theorem parseNat_of_ne_nil {cs : Text} (h : cs ≠ []) : parseNat cs = parseDigits cs 0 := by
  cases cs with
  | nil => exact absurd rfl h
  | cons c cs => rfl

/-- A number is one or more digits (R111). -/
theorem parseNat_eq_some_iff {cs : Text} {n : Nat} :
    parseNat cs = some n ↔ ∃ digits : List Nat,
      digits ≠ [] ∧ (∀ d ∈ digits, d < 10) ∧ cs = digits.map digitChar ∧ n = numberAfter 0 digits := by
  constructor
  · intro h
    have hne : cs ≠ [] := by rintro rfl; cases h
    rw [parseNat_of_ne_nil hne] at h
    obtain ⟨digits, hdigits, rfl⟩ := exists_digits_of_parseDigits h
    rw [parseDigits_map_digitChar hdigits] at h
    exact ⟨digits, by simpa using hne, hdigits, rfl, (Option.some.inj h).symm⟩
  · rintro ⟨digits, hne, hdigits, rfl, rfl⟩
    rw [parseNat_of_ne_nil (by simpa using hne), parseDigits_map_digitChar hdigits]

/-- The factor a sign stands for (R111). -/
abbrev signFactor (sign : Text) : Int := if sign = ['-'] then -1 else 1

/-- A token is an optional sign and a number. A number has no sign of its own, so the sign is the one the parser sees
(R111). -/
theorem parseToken_eq_some_iff {line : Line} {v : Int} :
    parseToken line = some v ↔ ∃ (sign cs : Text) (n : Nat), (sign = [] ∨ sign = ['+'] ∨ sign = ['-']) ∧
      line = sign ++ cs ∧ parseNat cs = some n ∧ v = signFactor sign * (n : Int) := by
  constructor
  · intro h
    unfold parseToken at h
    split at h <;> obtain ⟨n, hn, rfl⟩ := Option.map_eq_some_iff.1 h
    · exact ⟨['+'], _, n, by simp, rfl, hn, by simp⟩
    · exact ⟨['-'], _, n, by simp, rfl, hn, by simp⟩
    · exact ⟨[], _, n, by simp, rfl, hn, by simp⟩
  · rintro ⟨sign, cs, n, rfl | rfl | rfl, rfl, hn, rfl⟩
    · have hplus (rest : Text) : parseNat ('+' :: rest) = none := rfl
      have hminus (rest : Text) : parseNat ('-' :: rest) = none := rfl
      unfold parseToken
      split
      · rw [hplus] at hn; cases hn
      · rw [hminus] at hn; cases hn
      · simp [hn]
    · simp [parseToken, hn]
    · simp [parseToken, hn]

/-- The acceptance function is the parser with the range check (R111). -/
theorem accept_eq_some_iff {line : Line} {v : Int} : accept line = some v ↔ inWord v ∧ parseToken line = some v := by
  refine ⟨fun h => ⟨accept_inWord h, ?_⟩, fun ⟨hv, hp⟩ => by simp only [accept, hp, if_pos hv]⟩
  unfold accept at h
  split at h
  · split at h
    · rw [‹parseToken line = _›, h]
    · cases h
  · cases h

theorem loadLines_cons_of_reject {line : Line} (rest : List Line) (readError : Bool) {i : Nat} (s : State)
    (hi : i < Config.memSize) (ha : accept line = none) :
    loadLines (line :: rest) readError i s = raise .loadBadToken s := by
  simp only [loadLines, if_neg hi.ne, ha]

/-- Settles O35: a token is a sign and a number, a number is its digits, and the loader applies `accept`. -/
theorem acceptIsTheTokenGrammar : Obligations.AcceptIsTheTokenGrammar := by
  refine ⟨fun line v => ?_, fun line rest readError i s hi =>
    ⟨loadLines_cons_of_reject rest readError s hi, fun v => loadLines_cons_of_accept rest readError s hi⟩⟩
  rw [accept_eq_some_iff, parseToken_eq_some_iff]
  refine and_congr_right fun _ => ⟨?_, ?_⟩
  · rintro ⟨sign, cs, n, hsign, rfl, hn, rfl⟩
    obtain ⟨digits, hne, hdigits, rfl, rfl⟩ := parseNat_eq_some_iff.1 hn
    exact ⟨sign, digits, hne, hdigits, hsign, rfl, rfl⟩
  · rintro ⟨sign, digits, hne, hdigits, hsign, rfl, rfl⟩
    exact ⟨sign, _, _, hsign, rfl, parseNat_eq_some_iff.2 ⟨digits, hne, hdigits, rfl, rfl⟩, rfl⟩

/-! ### The digits of a number -/

/-- The digits are put before the tail and do not look at it. -/
theorem decimalBefore_append (fuel n : Nat) (tail : Text) :
    decimalBefore fuel n tail = decimalBefore fuel n [] ++ tail := by
  induction fuel generalizing n tail with
  | zero => rfl
  | succ fuel ih =>
    unfold decimalBefore
    split
    · rfl
    · rw [ih (n / 10) (_ :: tail), ih (n / 10) [_], List.append_assoc, List.singleton_append]

/-- Any fuel above the number is enough for all its digits. -/
theorem decimalBefore_fuel {fuel fuel' n : Nat} (tail : Text) (h : n < fuel) (h' : n < fuel') :
    decimalBefore fuel n tail = decimalBefore fuel' n tail := by
  induction fuel generalizing fuel' n tail with
  | zero => omega
  | succ fuel ih =>
    cases fuel' with
    | zero => omega
    | succ fuel' =>
      unfold decimalBefore
      split
      · rfl
      · exact ih _ (by omega) (by omega)

theorem decimal_of_lt {n : Nat} (h : n < 10) : decimal n = [digitChar n] := if_pos h

/-- The last digit of a longer number. -/
theorem decimal_of_ge {n : Nat} (h : 10 ≤ n) : decimal n = decimal (n / 10) ++ [digitChar (n % 10)] :=
  calc decimal n
      = decimalBefore n (n / 10) [digitChar (n % 10)] := if_neg (by omega)
    _ = decimalBefore (n / 10 + 1) (n / 10) [digitChar (n % 10)] := decimalBefore_fuel _ (by omega) (by omega)
    _ = decimal (n / 10) ++ [digitChar (n % 10)] := decimalBefore_append _ _ _

theorem padded_one_of_lt {n : Nat} (h : n < 10) : padded 1 n = [digitChar n] := by
  simp [padded, decimal_of_lt h]

/-- The last digit of a padded number, which has at least one more digit before it. -/
theorem padded_add_two (width n : Nat) :
    padded (width + 2) n = padded (width + 1) (n / 10) ++ [digitChar (n % 10)] := by
  by_cases h : n < 10
  · have hzero : digitChar 0 = '0' := rfl
    rw [Nat.div_eq_of_lt h, Nat.mod_eq_of_lt h, padded, padded, decimal_of_lt h, decimal_of_lt (n := 0) (by omega), hzero]
    simp [List.replicate_succ']
  · rw [padded, padded, decimal_of_ge (not_lt.1 h)]
    simp

/-- Four digits are enough for a number below 10000 (R114). -/
theorem padded_four {n : Nat} (h : n < 10000) :
    padded 4 n =
      [digitChar (n / 1000 % 10), digitChar (n / 100 % 10), digitChar (n / 10 % 10), digitChar (n % 10)] := by
  rw [padded_add_two, padded_add_two, padded_add_two, padded_one_of_lt (by omega)]
  simp only [Nat.div_div_eq_div_mul, List.cons_append, List.nil_append]
  rw [Nat.mod_eq_of_lt (a := n / 1000) (by omega)]

/-- The four digits of a Word, most significant first (R10). -/
abbrev fourDigits (v : Int) : List Nat := [dig v 3, dig v 2, dig v 1, dig v 0]

/-- The sign character of a number (R10). -/
abbrev signChar (v : Int) : Char := if 0 ≤ v then '+' else '-'

/-- A Word is printed as a sign and its four digits (R114). -/
theorem fmt4_of_inWord {v : Int} (hv : inWord v) : fmt4 v = signChar v :: (fourDigits v).map digitChar := by
  rw [inWord_iff] at hv
  rw [fmt4, padded_four (by omega)]
  simp [dig]

/-- The four digits of a Word spell its magnitude (R111, R114). -/
theorem numberAfter_fourDigits {v : Int} (hv : inWord v) : numberAfter 0 (fourDigits v) = v.natAbs := by
  rw [inWord_iff] at hv
  simp only [List.foldl_cons, List.foldl_nil, dig]
  omega

/-- Settles O37. -/
theorem writeRendersSignAndFourDigits : Obligations.WriteRendersSignAndFourDigits :=
  fun _ hv => congrArg (Config.outputPrefix ++ ·) (fmt4_of_inWord hv)

/-- Settles O38: the printed text is a sign and digits that spell the Word, so it is a token of the grammar. -/
theorem printedWordIsAcceptedBack : Obligations.PrintedWordIsAcceptedBack := by
  intro v hv
  have hdigits : ∀ d ∈ fourDigits v, d < 10 := by simp [dig, Nat.mod_lt]
  have hsign : signFactor [signChar v] * (v.natAbs : Int) = v := by
    by_cases h : 0 ≤ v
    · simp [h]
    · simp only [signFactor, signChar, if_neg h, if_true]; omega
  refine (acceptIsTheTokenGrammar.1 _ v).2 ⟨hv, [signChar v], fourDigits v, by simp, hdigits, ?_, fmt4_of_inWord hv, ?_⟩
  · by_cases h : 0 ≤ v <;> simp [h]
  · exact by rw [← numberAfter_fourDigits hv] at hsign; exact hsign.symm

/-! ### WRITE -/

/-- An instruction that only advances the counter of a running core leaves address 99 for a stop (R35, R91). -/
theorem runsOffTheEnd_of_advances {s t : State} (hic : t.ic = s.ic + 1) (hp : t.phase = s.phase) (hpf : t.pf = s.pf)
    (hw : t.rdwait = s.rdwait) : runsOffTheEnd s t := by
  intro hps hpfs hws hlast
  refine step_of_not_counterValid (hp.trans hps) (hw.trans hws) (hpf.trans hpfs) ?_
  rw [counterValid, hic, hlast]
  decide

/-- The meaning of WRITE at an address that exists (R113). -/
theorem execWrite_of_lt {a : Nat} (s : State) (ha : a < Config.memSize) :
    execWrite a s = .next (advance (emit (.value (memGet s.mem a)) s)) :=
  readOperand_of_lt s _ ha

/-- Settles O36: the word is the encoding of WRITE, and its meaning advances the counter. -/
theorem writeEmitsTheWord : Obligations.WriteEmitsTheWord := by
  intro s a ha
  have hd : decode (encode (.write a)) = .instr (.write a) :=
    decodeReadsBackEveryEncoding _ ((wellFormed_iff (.write a)).2 ha)
  exact ⟨hd, execWrite_of_lt s ha, rfl, runsOffTheEnd_of_advances rfl rfl rfl rfl⟩

end Sys2Proof.Proofs

/-! PROOFS. The statements about LOAD and STORE: each word is the encoding of its instruction, whose operand is an
address that exists, so the access meets its requirement; the counter advances and may then run off address 99. -/

namespace Sys2Proof.Proofs

open Sys2Proof.Machine Sys2Proof.Safety

/-- The encoding of an instruction whose operand is an address decodes to it (R81, R88). -/
theorem decode_encode_of_lt {i : Instr} (h : i.operand < Config.memSize) : decode (encode i) = .instr i :=
  decodeReadsBackEveryEncoding i ((wellFormed_iff i).2 h)

/-- The meaning of LOAD at an address that exists (R120). -/
theorem execLoad_of_lt {a : Nat} (s : State) (ha : a < Config.memSize) :
    execLoad a s = .next (advance (setAcc (memGet s.mem a) s)) :=
  readOperand_of_lt s _ ha

/-- Settles O39: LOAD reads an address that exists, and from address 99 its advance runs off the end. -/
theorem loadCopiesTheWord : Obligations.LoadCopiesTheWord := by
  intro s a ha
  have hdecode : decode (encode (.load a)) = .instr (.load a) := decode_encode_of_lt ha
  exact ⟨hdecode, execLoad_of_lt s ha, runsOffTheEnd_of_advances rfl rfl rfl rfl⟩

/-- Settles O40: the accumulator is a Word, so the store is carried out, and memory in canonical form reads it back at
its address alone. -/
theorem storeCopiesTheAccumulator : Obligations.StoreCopiesTheAccumulator := by
  intro s a hm hacc ha
  have hdecode : decode (encode (.store a)) = .instr (.store a) := decode_encode_of_lt ha
  have hread : memGet (memSet s.mem a s.acc) a = s.acc := by rw [memGet_memSet hm, if_pos rfl]
  have hframe (b : Nat) (hb : b ≠ a) : memGet (memSet s.mem a s.acc) b = memGet s.mem b := by
    rw [memGet_memSet hm, if_neg hb]
  exact ⟨hdecode, execStore_of_inWord ha hacc, hread, hframe, runsOffTheEnd_of_advances rfl rfl rfl rfl⟩

end Sys2Proof.Proofs

/-! PROOFS. The statements about the five arithmetic instructions: ADD, SUBTRACT, MULTIPLY and MODULE end in the
checked write of the accumulator (R130), DIVIDE in an unchecked one (R137), and a zero divisor stops before either. -/

namespace Sys2Proof.Proofs

open Sys2Proof.Machine Sys2Proof.Safety

/-! ### Truncating division -/

/-- Truncation toward zero never enlarges the dividend (R137). -/
theorem natAbs_divT_le (a b : Int) : (divT a b).natAbs ≤ a.natAbs := by
  rw [divT, Int.natAbs_tdiv]
  exact Nat.div_le_self _ _

/-- The remainder is smaller than the divisor (R136). -/
theorem natAbs_modT_lt (a : Int) {b : Int} (hb : b ≠ 0) : (modT a b).natAbs < b.natAbs := by
  rw [modT_eq_tmod, Int.natAbs_tmod]
  exact Nat.mod_lt _ (Int.natAbs_pos.2 hb)

/-- A remainder other than zero has the sign of the dividend (R135, decision D8). -/
theorem modT_eq_zero_or_sign_eq (a b : Int) : modT a b = 0 ∨ (modT a b).sign = a.sign := by
  rw [modT_eq_tmod]
  rcases lt_trichotomy a 0 with ha | rfl | ha
  · have hneg : 0 ≤ Int.tmod (-a) b := Int.tmod_nonneg b (by omega)
    rw [Int.neg_tmod, Int.neg_nonneg] at hneg
    rcases hneg.lt_or_eq with h | h
    · exact .inr (by rw [Int.sign_eq_neg_one_of_neg h, Int.sign_eq_neg_one_of_neg ha])
    · exact .inl h
  · exact .inl (Int.zero_tmod b)
  · rcases (Int.tmod_nonneg b ha.le).lt_or_eq with h | h
    · exact .inr (by rw [Int.sign_eq_one_of_pos h, Int.sign_eq_one_of_pos ha])
    · exact .inl h.symm

/-- The remainder by a Word is a Word, whatever the dividend: MODULE's range check passes (R138). -/
theorem inWord_modT_of_divisor (a : Int) {b : Int} (hb : b ≠ 0) (hw : inWord b) : inWord (modT a b) := by
  have hlt := natAbs_modT_lt a hb
  rw [inWord_iff] at hw ⊢
  omega

/-! ### The checked write of the accumulator -/

theorem setAccChecked_of_inWord {v : Int} (s : State) (hv : inWord v) :
    setAccChecked v s = advance (setAcc v s) := overflowCheck_of_inWord hv

theorem setAccChecked_of_not_inWord {v : Int} (s : State) (hv : ¬ inWord v) :
    setAccChecked v s = raise .accOverflow (setAcc v s) := overflowCheck_of_not_inWord hv

/-- The exact result stays in the accumulator whether or not it is a Word (R31, R130). -/
@[simp] theorem setAccChecked_acc (v : Int) (s : State) : (setAccChecked v s).acc = v := by
  obtain ⟨-, h⟩ | ⟨-, h⟩ := setAccChecked_cases v s <;> rw [h] <;> rfl

/-- Both outcomes of an answer that is the checked write of `v`, as whole states (R130, R162). -/
theorem checked_outcomes {s : State} {v : Int} {r : Result} (h : r = .next (setAccChecked v s)) :
    (inWord v → r = .next { s with acc := v, ic := s.ic + 1 }) ∧
      (¬ inWord v → r = .next (errorStop .accOverflow { s with acc := v })) := by
  constructor
  · intro hv; rw [h, setAccChecked_of_inWord s hv]; rfl
  · intro hv; rw [h, setAccChecked_of_not_inWord s hv]; rfl

/-! ### The five meanings at an address that exists -/

section

variable {a : Nat} (s : State) (ha : a < Config.memSize)

include ha

theorem execAdd_of_lt : execAdd a s = .next (setAccChecked (s.acc + memGet s.mem a) s) :=
  readOperand_of_lt s _ ha

theorem execSubtract_of_lt : execSubtract a s = .next (setAccChecked (s.acc - memGet s.mem a) s) :=
  readOperand_of_lt s _ ha

theorem execMultiply_of_lt : execMultiply a s = .next (setAccChecked (s.acc * memGet s.mem a) s) :=
  readOperand_of_lt s _ ha

theorem execDivide_of_lt : execDivide a s =
    .next (if memGet s.mem a = 0 then raise .divideByZero s
      else advance (setAcc (divT s.acc (memGet s.mem a)) s)) :=
  readOperand_of_lt s _ ha

theorem execModulo_of_lt : execModulo a s =
    .next (if memGet s.mem a = 0 then raise .moduleByZero s
      else setAccChecked (modT s.acc (memGet s.mem a)) s) :=
  readOperand_of_lt s _ ha

end

/-! ### DIVIDE and MODULE with a divisor that is not zero -/

/-- DIVIDE by a divisor other than zero advances with the quotient, unchecked (R133, R137). -/
theorem eq_of_exec_divide {s t : State} {a : Nat} (hb : memGet s.mem a ≠ 0) (h : exec (.divide a) s = .next t) :
    t = advance (setAcc (divT s.acc (memGet s.mem a)) s) := by
  obtain ⟨-, ⟨hz, -⟩ | ⟨-, ht⟩⟩ := execDivide_next h
  · exact absurd hz hb
  · exact ht

/-- MODULE by a divisor other than zero is the checked write of the remainder (R135). -/
theorem eq_of_exec_modulo {s t : State} {a : Nat} (hb : memGet s.mem a ≠ 0) (h : exec (.modulo a) s = .next t) :
    t = setAccChecked (modT s.acc (memGet s.mem a)) s := by
  obtain ⟨-, ⟨hz, -⟩ | ⟨-, ht⟩⟩ := execModulo_next h
  · exact absurd hz hb
  · exact ht

/-- Settles O47: DIVIDE leaves the truncated quotient and MODULE its remainder, checked or not. -/
theorem quotientAndRemainderFitTogether : Obligations.QuotientAndRemainderFitTogether := by
  intro s q r a hb hq hr
  have hqacc : q.acc = divT s.acc (memGet s.mem a) := by rw [eq_of_exec_divide hb hq]; rfl
  have hracc : r.acc = modT s.acc (memGet s.mem a) := by rw [eq_of_exec_modulo hb hr, setAccChecked_acc]
  rw [hqacc, hracc]
  exact ⟨divT_mul_add_modT _ _, natAbs_modT_lt _ hb, modT_eq_zero_or_sign_eq _ _⟩

/-- Settles O48: the quotient is no larger than the dividend, so it needs no range check. -/
theorem divideNeverLeavesTheWordRange : Obligations.DivideNeverLeavesTheWordRange := by
  intro s t a hacc hb h
  obtain rfl := eq_of_exec_divide hb h
  exact ⟨inWord_divT _ hacc, natAbs_divT_le _ _, rfl, rfl, rfl⟩

/-! ### The frame -/

/-- Everything an arithmetic instruction can leave of a state (R130, R133, R135): it writes the accumulator and then
advances or stops with an interpret cause. The stop on a zero divisor keeps the accumulator, so there `v` is `s.acc`. -/
inductive ArithmeticEffect (s : State) : State → Prop
  | advances (v : Int) : ArithmeticEffect s (advance (setAcc v s))
  | stops (v : Int) (c : Cause) (hc : isInterpretCause c = true) : ArithmeticEffect s (raise c (setAcc v s))

theorem ArithmeticEffect.of_checked {s t : State} {v : Int} (h : t = setAccChecked v s) : ArithmeticEffect s t := by
  subst h
  obtain ⟨-, h⟩ | ⟨-, h⟩ := setAccChecked_cases v s
  · rw [h]; exact .advances v
  · rw [h]; exact .stops v .accOverflow rfl

theorem ArithmeticEffect.of_zeroDivisor {s t : State} {c : Cause} (hc : isInterpretCause c = true)
    (h : t = raise c s) : ArithmeticEffect s t := by
  subst h; exact .stops s.acc c hc

/-- The effects of `ArithmeticEffect` are all there are, whether or not a READ waits. -/
theorem arithmeticEffect_of_exec {s t : State} {a : Nat} {i : Instr}
    (hi : i ∈ [Instr.add a, .subtract a, .divide a, .multiply a, .modulo a]) (h : exec i s = .next t) :
    ArithmeticEffect s t := by
  simp only [List.mem_cons, List.not_mem_nil, or_false] at hi
  obtain rfl | rfl | rfl | rfl | rfl := hi
  · exact .of_checked (execAdd_next h).2
  · exact .of_checked (execSubtract_next h).2
  · obtain ⟨-, ⟨-, ht⟩ | ⟨-, rfl⟩⟩ := execDivide_next h
    · exact .of_zeroDivisor rfl ht
    · exact .advances _
  · exact .of_checked (execMultiply_next h).2
  · obtain ⟨-, ⟨-, ht⟩ | ⟨-, ht⟩⟩ := execModulo_next h
    · exact .of_zeroDivisor rfl ht
    · exact .of_checked ht

/-- Settles O49: neither effect writes memory, the fetched word or the host's side. -/
theorem arithmeticFrame : Obligations.ArithmeticFrame := by
  intro s t a i hi h
  cases arithmeticEffect_of_exec hi h with
  | advances v => exact ⟨fun _ => rfl, rfl, rfl, rfl, rfl, rfl, rfl, rfl, rfl, .inl ⟨rfl, rfl, rfl, rfl⟩⟩
  | stops v c hc => exact ⟨fun _ => rfl, rfl, rfl, rfl, rfl, rfl, rfl, rfl, rfl, .inr ⟨rfl, hc, rfl, rfl⟩⟩

/-! ### The whole state after each instruction -/

/-- Settles O42. -/
theorem addIsExactAndChecked : Obligations.AddIsExactAndChecked := fun s a ha =>
  ⟨decode_encode_of_lt (i := .add a) ha, checked_outcomes (execAdd_of_lt s ha)⟩

/-- Settles O43. -/
theorem subtractIsExactAndChecked : Obligations.SubtractIsExactAndChecked := fun s a ha =>
  ⟨decode_encode_of_lt (i := .subtract a) ha, checked_outcomes (execSubtract_of_lt s ha)⟩

/-- Settles O44. -/
theorem multiplyIsExactAndChecked : Obligations.MultiplyIsExactAndChecked := fun s a ha =>
  ⟨decode_encode_of_lt (i := .multiply a) ha, checked_outcomes (execMultiply_of_lt s ha)⟩

/-- Settles O45: the divisor decides between the quotient and the stop. -/
theorem divideTruncatesOrStops : Obligations.DivideTruncatesOrStops := by
  intro s a ha
  refine ⟨decode_encode_of_lt (i := .divide a) ha, fun hb => ?_, fun hb => ?_⟩
  · exact (execDivide_of_lt s ha).trans (by rw [if_neg hb]; rfl)
  · exact (execDivide_of_lt s ha).trans (by rw [if_pos hb]; rfl)

/-- Settles O46: the divisor is a Word, so the remainder is one too and its check passes. -/
theorem moduleTakesTheTruncatedRemainder : Obligations.ModuleTakesTheTruncatedRemainder := by
  intro s a hm ha
  refine ⟨decode_encode_of_lt (i := .modulo a) ha, fun hb => ?_, fun hb => ?_⟩
  · have hword : inWord (modT s.acc (memGet s.mem a)) := inWord_modT_of_divisor _ hb (memGet_inWord hm a)
    have hexec := execModulo_of_lt s ha
    rw [if_neg hb] at hexec
    exact (checked_outcomes hexec).1 hword
  · exact (execModulo_of_lt s ha).trans (by rw [if_pos hb]; rfl)

end Sys2Proof.Proofs

/-! PROOFS. The statements about control transfer: each word is the encoding of its instruction, a branch that is not
taken may run off address 99, only HALT enters HALTED_NORMAL, and a BRANCH to its own address reaches its fixed state
with its first fetch. -/

namespace Sys2Proof.Proofs

open Sys2Proof.Machine Sys2Proof.Safety

/-! ### The branches and HALT -/

/-- Settles O50. -/
theorem branchSetsTheCounter : Obligations.BranchSetsTheCounter := fun _ a ha =>
  ⟨decode_encode_of_lt (i := .branch a) ha, rfl⟩

/-- Settles O51: the sign of the accumulator decides between the jump and the advance. -/
theorem branchNegTestsTheSign : Obligations.BranchNegTestsTheSign := by
  intro s a ha
  have htaken (h : s.acc < 0) : exec (.branchNeg a) s = .next (setIc a s) := congrArg _ (if_pos h)
  have hpassed (h : 0 ≤ s.acc) : exec (.branchNeg a) s = .next (advance s) := congrArg _ (if_neg (not_lt.2 h))
  exact ⟨decode_encode_of_lt (i := .branchNeg a) ha, htaken,
    fun h => ⟨hpassed h, runsOffTheEnd_of_advances rfl rfl rfl rfl⟩⟩

/-- Settles O52: whether the accumulator is zero decides between the jump and the advance. -/
theorem branchZeroTestsForZero : Obligations.BranchZeroTestsForZero := by
  intro s a ha
  have htaken (h : s.acc = 0) : exec (.branchZero a) s = .next (setIc a s) := congrArg _ (if_pos h)
  have hpassed (h : s.acc ≠ 0) : exec (.branchZero a) s = .next (advance s) := congrArg _ (if_neg h)
  exact ⟨decode_encode_of_lt (i := .branchZero a) ha, htaken,
    fun h => ⟨hpassed h, runsOffTheEnd_of_advances rfl rfl rfl rfl⟩⟩

/-- Settles O53. -/
theorem haltStopsNormally : Obligations.HaltStopsNormally := fun _ n hn =>
  ⟨decode_encode_of_lt (i := .halt n) hn, rfl⟩

/-! ### The normal end -/

/-- HALT is the only instruction whose meaning enters HALTED_NORMAL (R153). -/
theorem ExecEffect.eq_halt_of_haltedNormal {d t : State} {i : Instr} (h : ExecEffect d i t)
    (hd : d.phase ≠ .haltedNormal) (ht : t.phase = .haltedNormal) : ∃ n, i = .halt n := by
  cases h with
  | halted n => exact ⟨n, rfl⟩
  | overflowed | zeroDivisor => cases ht
  | _ => exact absurd ht hd

/-- Settles O11: of the effects of a step only the run of an instruction enters HALTED_NORMAL. -/
theorem normalEndOnlyByHalt : Obligations.NormalEndOnlyByHalt := by
  intro s t h hs ht
  cases stepEffect_of_step h with
  | runs hr he =>
    obtain ⟨n, rfl⟩ := he.eq_halt_of_haltedNormal hs ht
    exact ⟨n, hr⟩
  | starts | notFound | loadStops | loads | counterStops | unknownStops => cases ht
  | _ => exact absurd ht hs

/-! ### A BRANCH to its own address -/

/-- The core is about to fetch a BRANCH to the address it stands at (R150, R209). -/
def AtSelfBranch (s : State) : Prop := readyToFetch s ∧ memGet s.mem s.ic = 4000 + (s.ic : Int)

/-- `s` once that BRANCH has been fetched and decoded. -/
def selfBranchFetched (s : State) : State := { s with ir := 4000 + (s.ic : Int), opc := 40, opd := (s.ic : Int) }

/-- The fetch writes neither memory nor the counter, so the core stays at the BRANCH. -/
theorem AtSelfBranch.fetched {s : State} (h : AtSelfBranch s) : AtSelfBranch (selfBranchFetched s) := h

/-- The jump goes to the counter itself, so nothing but the fetch is seen (R150). -/
theorem AtSelfBranch.step_eq {s : State} (h : AtSelfBranch s) : step s = .next (selfBranchFetched s) := by
  obtain ⟨hready, hword⟩ := h
  have ⟨_, _, _, hic⟩ := hready
  have hd : decode (4000 + (s.ic : Int)) = .instr (.branch s.ic) := decode_encode_of_lt (i := .branch s.ic) hic
  obtain ⟨hopc, hopd⟩ := decode_eq_instr_iff.1 hd
  have hfetched : fetchDecode s = selfBranchFetched s := by
    calc fetchDecode s = decodedState s := rfl
      _ = selfBranchFetched s := by rw [decodedState, hword, hopc, hopd]; rfl
  calc step s = exec (.branch s.ic) (fetchDecode s) := step_of_runsInstr ⟨hready, by rw [hword, hd]⟩
    _ = .next (setIc s.ic (selfBranchFetched s)) := by rw [hfetched]; rfl
    _ = .next (selfBranchFetched s) := rfl

/-- By induction on the number of steps: fetching the same BRANCH again changes nothing. -/
theorem AtSelfBranch.run_succ {s : State} (h : AtSelfBranch s) (k : Nat) :
    Host.Core.run core (k + 1) s = .next (selfBranchFetched s) := by
  induction k generalizing s with
  | zero => exact run_succ_of_step h.step_eq 0
  | succ k ih =>
    calc Host.Core.run core (k + 2) s
        = Host.Core.run core (k + 1) (selfBranchFetched s) := run_succ_of_step h.step_eq (k + 1)
      _ = .next (selfBranchFetched (selfBranchFetched s)) := ih h.fetched
      _ = .next (selfBranchFetched s) := rfl

/-- Settles O29. -/
theorem branchToItselfRunsForever : Obligations.BranchToItselfRunsForever :=
  fun _ hready hword => AtSelfBranch.run_succ ⟨hready, hword⟩

end Sys2Proof.Proofs

/-! PROOFS. The statements about failures and stops: what the error stop writes, the run driver's turn after a stop, a
blocked READ, the host's actions, and the whole state that each cause leaves. A load stops where the lines it has
accepted end (`LoadEnd`); every other stop is read off the effects of a step. -/

namespace Sys2Proof.Proofs

open Sys2Proof.Machine Sys2Proof.Safety

/-! ### The error stop and the close of a run -/

/-- Settles O27. -/
theorem errorStopWritesThreeRegisters : Obligations.ErrorStopWritesThreeRegisters := fun _ _ => rfl

theorem closeRun_of_readout_none {s : State} (h : s.readout = none) :
    closeRun s = { s with output := s.output ++ closingNotices s, readout := some (takeReadout s) } := by
  rw [closeRun, h]

theorem closeRun_of_readout_some {s : State} {r : Readout} (h : s.readout = some r) : closeRun s = s := by
  rw [closeRun, h]

theorem closingNotices_of_haltedNormal {s : State} (hp : s.phase = .haltedNormal) : closingNotices s = [.execEnd] := by
  rw [closingNotices, hp]

theorem closingNotices_of_haltedError {s : State} (hp : s.phase = .haltedError) :
    closingNotices s = [.errorMsg s.cause, .abnormal] := by
  rw [closingNotices, hp]

theorem memWords_length (m : Memory) : (memWords m).length = Config.memSize := by
  rw [memWords, List.length_map, List.length_range]

/-- Item 5 of the readout shows at each address the word there (R179). -/
theorem memWords_getD (m : Memory) {a : Nat} (ha : a < Config.memSize) : (memWords m).getD a 0 = memGet m a := by
  rw [List.getD_eq_getElem _ _ (by rwa [memWords_length])]
  simp only [memWords, List.getElem_map, List.getElem_range]

/-- Settles O60: the run driver's turn, by whether the readout has been taken and by the end of the run. -/
theorem stoppedRunIsClosedOnce : Obligations.StoppedRunIsClosedOnce := by
  intro s
  refine ⟨fun hro hp => ?_, fun hro hp => ?_, fun r hro hend => ?_, rfl, rfl, rfl, rfl, rfl, memWords_length s.mem,
    fun a => memWords_getD s.mem⟩
  · rw [step_of_runEnded (.inl hp), closeRun_of_readout_none hro, closingNotices_of_haltedNormal hp]
  · rw [step_of_runEnded (.inr hp), closeRun_of_readout_none hro, closingNotices_of_haltedError hp]
  · rw [step_of_runEnded hend, closeRun_of_readout_some hro]

/-! ### A blocked READ and the host's actions -/

theorem completeRead_of_no_input {s : State} (a : Int) (hin : s.input = []) : completeRead a s = .next s := by
  rw [completeRead, hin]

/-- Settles O33, by induction on the number of steps: each answers the same blocked state. -/
theorem blockedReadStaysBlocked : Obligations.BlockedReadStaysBlocked := by
  rintro s ⟨hp, hw, hin⟩ k
  have hstep : step s = .next s := (step_of_waiting hp hw).trans (completeRead_of_no_input s.opd hin)
  induction k with
  | zero => rfl
  | succ k ih => rw [run_succ_of_step hstep, ih]

/-- A request is taken in IDLE only, where the invariant binds the core and not the source (R201). -/
theorem inv_requestRun {s : State} (src : ProgramSource) (hs : Inv s) : Inv (requestRun src s) := by
  unfold requestRun
  split
  · rename_i h
    obtain ⟨hp, -⟩ := h
    obtain ⟨hf, -⟩ := (inv_iff_freshCore (.inl hp)).1 hs
    exact (inv_iff_freshCore (s := { s with source := some src }) (.inl hp)).2
      ⟨{ hf with }, fun _ => Option.some_ne_none src⟩
  · exact hs

/-- No part of the invariant reads the console lines (R175). -/
theorem inv_supplyLine {s : State} (line : Line) (hs : Inv s) : Inv (supplyLine line s) := hs

/-- Settles O6. -/
theorem hostActionsKeepInvariant : Obligations.HostActionsKeepInvariant :=
  fun _ src line hs => ⟨inv_requestRun src hs, inv_supplyLine line hs⟩

/-! ### The console streams -/

/-- The events that the meaning of an instruction appends: the prompt of READ, the value of WRITE, or none (R176). -/
theorem ExecEffect.appendsOutput {d t : State} {i : Instr} (h : ExecEffect d i t) :
    ∃ es, t.output = d.output ++ es := by
  cases h with
  | readIssued => exact ⟨[.prompt], rfl⟩
  | wrote a => exact ⟨[.value (memGet d.mem a)], rfl⟩
  | _ => exact ⟨[], (List.append_nil d.output).symm⟩

/-- Settles O16: of the effects of a step the successful load, a rejected line, the run of an instruction and the close
of the run append events. -/
theorem outputStreamIsAppendOnly : Obligations.OutputStreamIsAppendOnly := by
  intro s t h
  cases stepEffect_of_step h with
  | loads => exact ⟨[.loadDone, .execBegin], List.append_assoc s.output [.loadDone] [.execBegin]⟩
  | readRejects => exact ⟨[.reject], rfl⟩
  | runs hr he => exact he.appendsOutput
  | closes => exact ⟨closingNotices s, rfl⟩
  | _ => exact ⟨[], (List.append_nil s.output).symm⟩

/-- No meaning, begun where no READ waits, consumes a line (R175). -/
theorem ExecEffect.keeps_input {d t : State} {i : Instr} (h : ExecEffect d i t) : t.input = d.input := by
  cases h <;> rfl

/-- Settles O17: of the effects of a step only an accepted and a rejected line change the lines that remain. -/
theorem linesConsumedOnlyByWaitingRead : Obligations.LinesConsumedOnlyByWaitingRead := by
  intro s t h hne
  cases stepEffect_of_step h with
  | readTakes hp hw hin => exact ⟨hp, hw, _, hin⟩
  | readRejects hp hw hin => exact ⟨hp, hw, _, hin⟩
  | runs hr he => exact absurd he.keeps_input hne
  | _ => exact absurd rfl hne

/-! ### The stops of a load -/

/-- Where a load with room for `room` more words ends: all lines taken, the first line turned down, or the first line
for which there is no room. The accepted lines before it are `good`, the lines from it on are `rest` (R202). -/
inductive LoadEnd (room : Nat) : (good rest : List Line) → Prop
  | taken {good : List Line} (hlen : good.length ≤ room) : LoadEnd room good []
  | turnedDown {good : List Line} {bad : Line} {rest : List Line} (hlen : good.length < room)
      (hbad : accept bad = none) : LoadEnd room good (bad :: rest)
  | full {good : List Line} {extra : Line} {rest : List Line} (hlen : good.length = room) :
      LoadEnd room good (extra :: rest)

theorem LoadEnd.length_le {room : Nat} {good rest : List Line} (h : LoadEnd room good rest) : good.length ≤ room := by
  cases h with
  | taken hlen => exact hlen
  | turnedDown hlen => exact hlen.le
  | full hlen => exact hlen.le

theorem LoadEnd.cons {room : Nat} {good rest : List Line} (h : LoadEnd room good rest) (line : Line) :
    LoadEnd (room + 1) (line :: good) rest := by
  cases h with
  | taken hlen => exact .taken (Nat.succ_le_succ hlen)
  | turnedDown hlen hbad => exact .turnedDown (Nat.succ_lt_succ hlen) hbad
  | full hlen => exact .full (congrArg Nat.succ hlen)

/-- Every list of lines has such an end (R202). -/
theorem exists_loadEnd (room : Nat) (lines : List Line) :
    ∃ good vals rest, lines = good ++ rest ∧ spells good vals ∧ LoadEnd room good rest := by
  induction lines generalizing room with
  | nil => exact ⟨[], [], [], rfl, rfl, .taken (Nat.zero_le room)⟩
  | cons line lines ih =>
    cases room with
    | zero => exact ⟨[], [], line :: lines, rfl, rfl, .full rfl⟩
    | succ room =>
      cases ha : accept line with
      | none => exact ⟨[], [], line :: lines, rfl, rfl, .turnedDown (Nat.succ_pos room) ha⟩
      | some v =>
        obtain ⟨good, vals, rest, rfl, hg, hend⟩ := ih room
        exact ⟨line :: good, v :: vals, rest, rfl, List.cons_eq_cons.2 ⟨ha, hg⟩, hend.cons line⟩

theorem loadLines_cons_of_full (extra : Line) (rest : List Line) (readError : Bool) (s : State) :
    loadLines (extra :: rest) readError Config.memSize s = raise .loadTooManyWords s :=
  if_pos rfl

/-- A source that cannot be opened (R161, R202). -/
theorem step_of_notFound {s : State} (hp : s.phase = .loading) (hs : s.source = some .notFound) :
    step s = .next (raise .loadNotFound s) := by
  simp only [step, hp, runLoader, hs]

/-- Settles O59: with no line after the accepted ones, a read error is the end of the loop. -/
theorem unreadableSourceStopsTheLoad : Obligations.UnreadableSourceStopsTheLoad := by
  intro s hp
  refine ⟨step_of_notFound hp, fun lines vals hs hmem hg hlen => ?_⟩
  exact step_of_loading_append (rest := []) hp (by rwa [List.append_nil]) hmem hg hlen

/-- A load that stops leaves the state of its cause: the end of the lines decides the cause (R161, R203, R204). -/
theorem causeLeaves_of_loading {s t : State} (hs : Inv s) (hp : s.phase = .loading) (h : step s = .next t)
    (ht : t.phase = .haltedError) : causeLeaves t.cause s t := by
  obtain ⟨hfresh, hpresent⟩ := (inv_iff_freshCore (.inr hp)).1 hs
  cases hsrc : s.source with
  | none => exact absurd hsrc (hpresent hp)
  | some src =>
    cases src with
    | notFound =>
      cases (step_of_notFound hp hsrc).symm.trans h
      exact ⟨hsrc, hfresh.mem, rfl⟩
    | opened lines readError =>
      obtain ⟨good, vals, rest, rfl, hg, hend⟩ := exists_loadEnd Config.memSize lines
      obtain ⟨m, hholds, hstep⟩ := step_of_loading_append hp hsrc hfresh.mem hg hend.length_le
      cases hstep.symm.trans h
      cases hend with
      | taken hlen =>
        cases readError with
        | false => cases ht
        | true => exact ⟨good, by rwa [List.append_nil] at hsrc, hlen, vals, hg, hholds, rfl⟩
      | turnedDown hlen hbad =>
        rw [loadLines_cons_of_reject _ _ _ hlen hbad]
        exact ⟨good, _, _, readError, hsrc, hbad, hlen, vals, hg, hholds, rfl⟩
      | full hlen =>
        rw [hlen, loadLines_cons_of_full]
        exact ⟨good, _, _, readError, hsrc, hlen, vals, hg, hholds, rfl⟩

/-! ### The stops of a running core -/

/-- An instruction that stops leaves the state of its cause: the range check stops ADD, SUBTRACT and MULTIPLY only,
since the remainder always fits (R138, R161 to R163, R165). -/
theorem ExecEffect.leavesCause {s t : State} {i : Instr} (hr : runsInstr s i) (h : ExecEffect (fetchDecode s) i t)
    (hacc : inWord s.acc) (ht : t.phase = .haltedError) : causeLeaves t.cause s t := by
  have hp : s.phase = .running := hr.1.1
  have hnot : s.phase ≠ .haltedError := by simp [hp]
  cases h with
  | overflowed hc hv =>
    cases hc with
    | add a => exact ⟨a, .inl ⟨hr, hv, rfl⟩⟩
    | subtract a => exact ⟨a, .inr (.inl ⟨hr, hv, rfl⟩)⟩
    | multiply a => exact ⟨a, .inr (.inr ⟨hr, hv, rfl⟩)⟩
    | modulo => exact absurd (inWord_modT _ hacc) hv
  | zeroDivisor hz =>
    cases hz with
    | divide a hb => exact ⟨a, hr, hb, rfl⟩
    | modulo a hb => exact ⟨a, hr, hb, rfl⟩
  | halted => cases ht
  | _ => exact absurd ht hnot

/-- A step outside the loader that enters HALTED_ERROR leaves the state of its cause (R161 to R166). -/
theorem StepEffect.leavesCause {s t : State} (h : StepEffect s t) (hs : Inv s) (hload : s.phase ≠ .loading)
    (hnot : s.phase ≠ .haltedError) (ht : t.phase = .haltedError) : causeLeaves t.cause s t := by
  cases h with
  | notFound hp => exact absurd hp hload
  | loadStops hp => exact absurd hp hload
  | counterStops hp _ hic =>
    obtain ⟨hrun, -⟩ := (inv_iff_runningCore hp).1 hs
    exact ⟨le_antisymm hrun.ic (not_lt.1 hic), rfl⟩
  | unknownStops hf hd =>
    refine ⟨hf, fun hmem => ?_, rfl⟩
    obtain ⟨i, hi⟩ := exists_decode_eq_instr_iff.2 hmem
    rw [hd] at hi
    cases hi
  | runs hr he =>
    obtain ⟨hrun, -⟩ := (inv_iff_runningCore hr.1.1).1 hs
    exact he.leavesCause hr hrun.acc ht
  | starts | loads => cases ht
  | _ => exact absurd ht hnot

/-- The step of a HALT leaves the decoded state with the two stop registers written (R153). -/
theorem step_of_runsInstr_halt {s : State} {n : Nat} (hr : runsInstr s (.halt n)) :
    step s = .next (haltNormal (fetchDecode s)) :=
  step_of_runsInstr hr

/-- Settles O4: a load that stops, the other stops with a cause, and the normal stop, each by what the step leaves. -/
theorem everyStopLeavesItsRecord : Obligations.EveryStopLeavesItsRecord := by
  intro s t hs hrec h
  have heffect := stepEffect_of_step h
  refine ⟨heffect.leavesRecord hs hrec, fun hnot ht => ?_, fun hnot ht => ?_⟩
  · by_cases hload : s.phase = .loading
    · exact causeLeaves_of_loading hs hload h ht
    · exact heffect.leavesCause hs hload hnot ht
  · obtain ⟨n, hr⟩ := normalEndOnlyByHalt s t h hnot ht
    cases (step_of_runsInstr_halt hr).symm.trans h
    exact ⟨⟨n, hr⟩, rfl⟩

end Sys2Proof.Proofs

/-! PROOFS. The statements about reset and the program load. One step of LOADING writes the accepted lines in order
(`step_of_loading_append`); the line the loop meets after them then decides how the load ends. -/

namespace Sys2Proof.Proofs

open Sys2Proof.Machine Sys2Proof.Safety

/-! ### Reset -/

/-- Settles O1: the registers are fields of the reset state, and a memory with no word written reads 0 everywhere. -/
theorem resetSetsEveryRegister : Obligations.ResetSetsEveryRegister := by
  have hzero : ∀ a, a < Config.memSize → memGet State.reset.mem a = 0 := fun a _ => memGet_nil a
  exact ⟨hzero, rfl, rfl, rfl, rfl, rfl, rfl, rfl, rfl, rfl⟩

/-! ### The ends of a load -/

/-- Settles O57: the loop meets the bad line while there is still room for a word. -/
theorem badTokenKeepsEarlierWords : Obligations.BadTokenKeepsEarlierWords := by
  intro s good rest bad readError vals hp hs hmem hg hlen hbad
  obtain ⟨m, hholds, hstep⟩ := step_of_loading_append hp hs hmem hg hlen.le
  exact ⟨m, hholds, hstep.trans (congrArg _ (loadLines_cons_of_reject _ _ _ hlen hbad))⟩

/-- Settles O58: the loop meets one more line when memory is full, so whether that line is accepted does not matter. -/
theorem tooManyLinesKeepTheFirstHundred : Obligations.TooManyLinesKeepTheFirstHundred := by
  intro s good rest extra readError vals hp hs hmem hg hlen
  obtain ⟨m, hholds, hstep⟩ := step_of_loading_append hp hs hmem hg hlen.le
  rw [hlen, loadLines_cons_of_full] at hstep
  exact ⟨m, hholds, hstep⟩

/-- Settles O55: the two notices are appended one after the other, and the load leaves the counter, hence the address
of the first fetch, alone. -/
theorem loadSuccessStartsRunning : Obligations.LoadSuccessStartsRunning := by
  intro s
  constructor
  · simp only [loadSuccess, emit, List.append_assoc, List.singleton_append]
  · intro hic
    rw [fetch_ir, loadSuccess_mem, loadSuccess_ic, hic]

end Sys2Proof.Proofs
